-- ==== Sys2Proof/Word.lean ====
section
/-! DEFINITION. The three widths the block moves: input bytes (R48), the 7-bit values of every wire byte
after the sync byte (R22, R50), and the 16-bit combined fields (R24, R85). -/

namespace Sys2Proof

/-- An input byte or a reconstructed data byte: 8 bits (R10). -/
abbrev Byte := BitVec 8

/-- The 7-bit payload of a DATA byte (R48), the entry type of the receive buffer (R22). -/
abbrev Septet := BitVec 7

/-- A combined address or command value (R24). -/
abbrev Word16 := BitVec 16

end Sys2Proof
end

