-- ==== Sys2Proof/Config.lean ====
section
/-! DEFINITION. The two parameters of a block instance (R7, R8, R29). -/

namespace Sys2Proof

/-- Parameter `ADDR_COMBINE` (R7): how two wire bytes form a 16-bit value (R85). -/
inductive AddrCombine where
  /-- `(lo + hi) << 8`, the value the repository computes. -/
  | precedence
  /-- `lo | (hi << 8)`, the likely-intended value. -/
  | littleEndian
deriving DecidableEq, Repr

namespace Config

/-- The default of `ADDR_COMBINE` (R7). -/
def defaultAddrCombine : AddrCombine := .precedence

/-- The least `BUF_CAPACITY` an instance may have: 127 frames of 6 bytes (R8). The model's buffer is an
unbounded list, which R8 allows; that it never needs more than this is a statement. DESIGN CHOICE,
log 4. -/
def minBufCapacity : Nat := 762

end Config

end Sys2Proof
end

