-- ==== Sys2Proof/Machine/Constants.lean ====
section
/-! DEFINITION. The fixed constants of R6 and the version codes of R54. R3: the spec's literals are not
audited against the repository (UNVERIFIED, log 10). -/

namespace Sys2Proof

/-- SYNC (R6). -/
@[simp] abbrev syncByte : Byte := 0xAA

/-- DETECT_LEN (R6): bytes buffered before the version byte is inspected. -/
@[simp] abbrev detectLen : Nat := 5

/-- HDR1_LEN (R6): length of the protocol-1.0 header. -/
@[simp] abbrev hdr1Len : Nat := 9

/-- HDR2_LEN (R6): length of the protocol-2.0 header. -/
@[simp] abbrev hdr2Len : Nat := 15

/-- FRAME_LEN (R6): wire bytes of one frame. -/
@[simp] abbrev frameLen : Nat := 6

/-- VER_V1 (R6, R54). -/
@[simp] abbrev verCodeV1 : Septet := 0x10

/-- VER_V2 (R6, R54). -/
@[simp] abbrev verCodeV2 : Septet := 0x20

/-- VER_UNSUP (R6, R54). -/
@[simp] abbrev verCodeUnsup : Septet := 0x30

end Sys2Proof
end

