-- ==== Sys2Proof/Syntax.lean ====
section
/-! DEFINITION. The FSM states, the inputs, and the instructions: one constructor per row of
spec/opcode_table.json. -/

namespace Sys2Proof

/-- The five values of `st` (R15, R20). -/
inductive FsmState where
  | waitSync
  | detectHeaderType
  | decodeHeader1
  | decodeHeader2
  | decodeFrames
deriving DecidableEq, Repr

/-- One input of a step: a byte of the stream (R66) or the separate reset input (R121). -/
inductive Input where
  | byte (b : Byte)
  | reset
deriving DecidableEq, Repr

/-- The instructions. A DATA byte is named by the row the action map R59 selects for it, and carries
the 7 bits the row leaves open (R48). -/
inductive Instr where
  /-- `SYNC`, R69. -/
  | sync
  /-- `ILLEGAL`, R70: the whole byte, which its FramingError reports. -/
  | illegal (b : Byte)
  /-- `DATA.WAIT_SYNC`, R72. -/
  | dataWaitSync (b : Septet)
  /-- `DATA.DETECT`, R76. -/
  | dataDetect (b : Septet)
  /-- `VER.V1`, R78. -/
  | verV1
  /-- `VER.V2`, R79. -/
  | verV2
  /-- `VER.UNSUP`, R80. -/
  | verUnsup
  /-- `VER.OTHER`, R81. -/
  | verOther (v : Septet)
  /-- `DATA.HDR1`, R83. -/
  | dataHdr1 (b : Septet)
  /-- `HDR1.CHECK`, R84. -/
  | hdr1Check (c : Septet)
  /-- `DATA.HDR2`, R91. -/
  | dataHdr2 (b : Septet)
  /-- `HDR2.DONE`, R92. -/
  | hdr2Done (b : Septet)
  /-- `DATA.FRAMES`, R94. -/
  | dataFrames (b : Septet)
  /-- `FRAMES.DONE`, R95. -/
  | framesDone (c : Septet)
  /-- `RESET`, R121. -/
  | reset
deriving DecidableEq, Repr

end Sys2Proof
end

