-- ==== Sys2Proof/WellFormed.lean ====
section
/-! DEFINITION. Which instruction terms stand for a row of the opcode table: the two rows that exclude
byte values (ILLEGAL excludes the sync byte and needs bit 7; VER.OTHER excludes the three named version
codes). -/

namespace Sys2Proof

/-- The operand values a row admits (opcode_table.json, columns `match`, `mask`, `excludes`; R49, R54). -/
def Instr.wellFormed : Instr → Bool
  | .illegal b => b[7] && b != syncByte
  | .verOther v => v != verCodeV1 && v != verCodeV2 && v != verCodeUnsup
  | .sync | .dataWaitSync _ | .dataDetect _ | .verV1 | .verV2 | .verUnsup | .dataHdr1 _ | .hdr1Check _
  | .dataHdr2 _ | .hdr2Done _ | .dataFrames _ | .framesDone _ | .reset => true

/-- `Instr.wellFormed` as a proposition. -/
abbrev Instr.WellFormed (i : Instr) : Prop := i.wellFormed = true

end Sys2Proof
end

