-- ==== Sys2Proof/Decode.lean ====
section
/-! DEFINITION. The decoder in its two stages (R49, then the action map R59), what a row's condition
admits, the encoder, and the readings of a word given alone. -/

namespace Sys2Proof

/-! ## The decoder -/

/-- The three byte classes (R49). -/
inductive ByteClass where
  | sync
  | illegal
  | data
deriving DecidableEq, Repr

/-- The class of a byte, in the priority order of R49 (R66). -/
def byteClass (b : Byte) : ByteClass :=
  if b = syncByte then .sync else if b[7] then .illegal else .data

/-- `val`, bits 6:0 of a byte (R48). -/
def payload (b : Byte) : Septet := b.setWidth 7

/-- What the action map reads of the state (R71): the FSM state, `len(buf)`, and the frame count of the
pending header where one is held. -/
structure Position where
  st : FsmState
  len : Nat
  declared : Option Nat
deriving DecidableEq, Repr

/-- Positions for which the action map R59 has no row. R27 says the block never holds one. DESIGN CHOICE
(safe), log 7. -/
inductive Rejection where
  /-- `DETECT_HEADER_TYPE` with five or more bytes buffered. -/
  | pastVersion
  /-- `DECODE_HEADER1` with nine or more bytes buffered. -/
  | pastHeader1
  /-- `DECODE_HEADER2` with fifteen or more bytes buffered. -/
  | pastHeader2
  /-- `DECODE_FRAMES` with the declared group already complete. -/
  | pastFrameGroup
  /-- `DECODE_FRAMES` with no pending header. -/
  | noPendingHeader
deriving DecidableEq, Repr

/-- The decoder's answer: an instruction, or a rejection by name. -/
inductive Decoded where
  | instr (i : Instr)
  | rejected (r : Rejection)
deriving DecidableEq, Repr

/-- The dispatch on the fifth byte (R54, R77). -/
def decodeVersion (v : Septet) : Instr :=
  if v = verCodeV1 then .verV1
  else if v = verCodeV2 then .verV2
  else if v = verCodeUnsup then .verUnsup
  else .verOther v

/-- The choice between an accumulating row (`n < need`), an acting row (`n = need`), and neither, for
`n = len(buf) + 1` (R59). -/
def whenReached (n need : Nat) (collect act : Instr) (r : Rejection) : Decoded :=
  if n < need then .instr collect else if n = need then .instr act else .rejected r

/-- The action map for a DATA byte (R59, R71). -/
def decodeData (p : Position) (b : Septet) : Decoded :=
  match p.st with
  | .waitSync => .instr (.dataWaitSync b)
  | .detectHeaderType => whenReached (p.len + 1) detectLen (.dataDetect b) (decodeVersion b) .pastVersion
  | .decodeHeader1 => whenReached (p.len + 1) hdr1Len (.dataHdr1 b) (.hdr1Check b) .pastHeader1
  | .decodeHeader2 => whenReached (p.len + 1) hdr2Len (.dataHdr2 b) (.hdr2Done b) .pastHeader2
  | .decodeFrames =>
    match p.declared with
    | some fc => whenReached (p.len + 1) (frameLen * fc) (.dataFrames b) (.framesDone b) .pastFrameGroup
    | none => .rejected .noPendingHeader

/-- The decoder: the class of the byte first, then, for a DATA byte, the action map (R66, R116). The
reset input is its own instruction (R121). -/
def decode (p : Position) : Input → Decoded
  | .reset => .instr .reset
  | .byte b =>
    match byteClass b with
    | .sync => .instr .sync
    | .illegal => .instr (.illegal b)
    | .data => decodeData p (payload b)

/-! ## The rows' conditions and the encoder -/

/-- The columns `state` and `condition` of opcode_table.json: the positions at which a row applies. -/
def Instr.enabledAt (i : Instr) (p : Position) : Bool :=
  match i with
  | .sync | .illegal _ | .reset => true
  | .dataWaitSync _ => p.st == .waitSync
  | .dataDetect _ => p.st == .detectHeaderType && (p.len + 1).blt detectLen
  | .verV1 | .verV2 | .verUnsup | .verOther _ => p.st == .detectHeaderType && p.len + 1 == detectLen
  | .dataHdr1 _ => p.st == .decodeHeader1 && (p.len + 1).blt hdr1Len
  | .hdr1Check _ => p.st == .decodeHeader1 && p.len + 1 == hdr1Len
  | .dataHdr2 _ => p.st == .decodeHeader2 && (p.len + 1).blt hdr2Len
  | .hdr2Done _ => p.st == .decodeHeader2 && p.len + 1 == hdr2Len
  | .dataFrames _ => p.st == .decodeFrames && p.declared.any fun fc => (p.len + 1).blt (frameLen * fc)
  | .framesDone _ => p.st == .decodeFrames && p.declared.any fun fc => p.len + 1 == frameLen * fc

/-- A DATA byte with the given payload: bit 7 clear (R48). -/
def dataByte (b : Septet) : Byte := b.setWidth 8

/-- The input that stands for an instruction (column `encoding` of opcode_table.json; R49, R54). -/
def encode : Instr → Input
  | .sync => .byte syncByte
  | .illegal b => .byte b
  | .verV1 => .byte (dataByte verCodeV1)
  | .verV2 => .byte (dataByte verCodeV2)
  | .verUnsup => .byte (dataByte verCodeUnsup)
  | .verOther b | .dataWaitSync b | .dataDetect b | .dataHdr1 b | .hdr1Check b | .dataHdr2 b | .hdr2Done b
  | .dataFrames b | .framesDone b => .byte (dataByte b)
  | .reset => .reset

/-! ## A word given alone

The opcode table's rows are selected by the byte AND the position, and a word alone has no position.
DESIGN CHOICE, log 8: the three bytes that a VERSION row fixes in all eight bits are read where such a row
applies, every other DATA byte in the state after reset. -/

/-- The input a table word of `nbits` bits stands for: one byte, or, for the row without bits, the reset
input. -/
def tableInput (nbits w : Nat) : Option Input :=
  if nbits = 0 then some .reset
  else if nbits = 8 ∧ w < 256 then some (.byte (BitVec.ofNat 8 w))
  else none

/-- Whether a byte is one of the three version codes that have a row of their own (R54). -/
def isVersionCode (b : Byte) : Bool :=
  b == dataByte verCodeV1 || b == dataByte verCodeV2 || b == dataByte verCodeUnsup

/-- The FSM state and buffer in which a lone input is read. -/
def loneContext : Input → FsmState × List Septet
  | .byte b => if isVersionCode b then (.detectHeaderType, [0, 0, 0, 0]) else (.waitSync, [])
  | .reset => (.waitSync, [])

/-- The position of `loneContext`. -/
def lonePosition (inp : Input) : Position := ⟨(loneContext inp).1, (loneContext inp).2.length, none⟩

/-- The instruction the decoder reads from a table word given alone. -/
def decodeTableWord (nbits w : Nat) : Option Instr :=
  match tableInput nbits w with
  | none => none
  | some inp =>
    match decode (lonePosition inp) inp with
    | .instr i => some i
    | .rejected _ => none

end Sys2Proof
end

