-- ==== Sys2Proof/Machine/State.lean ====
section
/-! DEFINITION. The block's state (R19), the header record (R24), the output events (R61 to R64), the
reasons a step can stop, and the state after reset (R31, R32). -/

namespace Sys2Proof.Machine

/-- The header record of a validated protocol-1.0 header, with the widths of R24. -/
structure Header where
  dstLo : Septet
  dstHi : Septet
  srcLo : Septet
  srcHi : Septet
  version : Byte
  cmdLo : Septet
  cmdHi : Septet
  frameCount : Byte
  checksum : Septet
  dst : Word16
  src : Word16
  cmd : Word16
deriving DecidableEq, Repr

/-- The four data bytes of one decoded frame (R62, R100). -/
structure DataFrame where
  d0 : Byte
  d1 : Byte
  d2 : Byte
  d3 : Byte
deriving DecidableEq, Repr

/-- The source's error kinds (R15, R107). -/
inductive ErrorKind where
  | framingError
  | unsupportedProtocolVersion
  | unrecognizedProtocolVersion
  | headerChecksumMismatch
  | frameCountMismatch
  | frameChecksumMismatch
  | datagramNotImplemented
deriving DecidableEq, Repr

/-- The fields of an ERROR event (R63). -/
structure ErrorReport where
  code : BitVec 3
  byte : Byte
  expected : BitVec 7
  index : BitVec 7
deriving DecidableEq, Repr

/-- An output event (R61). -/
inductive Event where
  /-- PACKET (R62). -/
  | packet (h : Header) (frames : List DataFrame)
  /-- ERROR (R63). -/
  | error (r : ErrorReport)
  /-- DATAGRAM_FAULT (R64): its code and the raw header bytes. -/
  | datagramFault (code : BitVec 3) (raw : List Septet)
deriving DecidableEq, Repr

/-- The state. `st`, `buf` and `pend` are the tuple of R19. -/
structure State where
  /-- The FSM state (R20). -/
  st : FsmState
  /-- The receive buffer, oldest entry first (R22). -/
  buf : List Septet
  /-- The pending header (R24). -/
  pend : Option Header
  /-- The output event sequence: what the steps so far emitted, in order (R12, R16). DEDUCED, log 2. -/
  events : List Event
  /-- The model's own: the inputs presented and not yet consumed, in order (R66, R67). DESIGN CHOICE,
  log 1. -/
  input : List Input
  /-- The instance parameter `ADDR_COMBINE` (R7, R29), which no step writes. DESIGN CHOICE, log 3. -/
  addrCombine : AddrCombine
deriving DecidableEq, Repr

/-- Why a step stops with a fault. None of the spec's errors is one: they are events, and the block goes
on (R105, R75). -/
inductive Fault where
  /-- Raised by a meaning that is called where the `state` and `condition` columns of its table row do
  not hold, where the same byte is another instruction. The step never raises it: the decoder selects a
  row only where it applies. Safe. DESIGN CHOICE, log 6. -/
  | outOfPlace
deriving DecidableEq, Repr

/-- Why a step gives an input no meaning. -/
inductive Refusal where
  /-- An instruction without a meaning; no arm of `exec` answers it. Safe. -/
  | notModelled (mnemonic : String)
  /-- Answered by the step for a DATA byte at a position where the action map R59 has no row; R27 says
  that the block never holds such a position. Safe. DESIGN CHOICE, log 7. -/
  | noAction (r : Rejection)
deriving DecidableEq, Repr

/-- The state after reset (R31, R32), in an instance with the default parameter (R7) and no input
presented. -/
def State.reset : State where
  st := .waitSync
  buf := []
  pend := none
  events := []
  input := []
  addrCombine := Config.defaultAddrCombine

end Sys2Proof.Machine
end

