-- ==== Sys2Proof/Machine/Codes.lean ====
section
/-! DEFINITION. The numbers the spec gives its names: the FSM encoding (R20), the error codes (R63, R107)
and the event kinds (R61). -/

namespace Sys2Proof

/-- The 3-bit encoding of `st` (R20). -/
def FsmState.encoding : FsmState → BitVec 3
  | .waitSync => 0b000
  | .detectHeaderType => 0b001
  | .decodeHeader1 => 0b010
  | .decodeHeader2 => 0b011
  | .decodeFrames => 0b100

namespace Machine

/-- The code of an error kind (R63, R107). -/
def ErrorKind.code : ErrorKind → BitVec 3
  | .framingError => 1
  | .unsupportedProtocolVersion => 2
  | .unrecognizedProtocolVersion => 3
  | .headerChecksumMismatch => 4
  | .frameCountMismatch => 5
  | .frameChecksumMismatch => 6
  | .datagramNotImplemented => 7

/-- `ev_kind` of what a step emits (R61). -/
def evKind : Option Event → BitVec 2
  | none => 0b00
  | some (.packet _ _) => 0b01
  | some (.error _) => 0b10
  | some (.datagramFault _ _) => 0b11

end Machine

end Sys2Proof
end

