-- ==== Sys2Proof/Machine/Checksum.lean ====
section
/-! DEFINITION. The checksum function (R13). The block has no flags (R28); the checksum tests built on this
function, in Operands.lean, are the only conditions it computes on data. -/

namespace Sys2Proof.Machine

/-- `sum(s)`: the integer sum of a sequence of 7-bit values (R10). -/
def septetSum (s : List Septet) : Nat := (s.map BitVec.toNat).sum

/-- `ck7(s) = (~sum(s)) & 0x7F` (R13): the low 7 bits of the sum, inverted. -/
def ck7 (s : List Septet) : Septet := ~~~ (BitVec.ofNat 7 (septetSum s))

end Sys2Proof.Machine
end

