-- ==== Sys2Proof/Machine/Operands.lean ====
section
/-! DEFINITION. The values the block assembles from buffered bytes (R57): the 16-bit fields, the header
record, the frames of a group, and their data bytes. -/

namespace Sys2Proof.Machine

/-- `s[i]` (R10). Every use is of an index below the sequence's length; past the end it would give 0, which
no rule asks for (log 12). -/
def entry (s : List Septet) (i : Nat) : Septet := s.getD i 0

/-- `comb(lo, hi)`, the first wire byte being `lo` (R85, R37). -/
def comb (c : AddrCombine) (lo hi : Septet) : Word16 :=
  match c with
  | .precedence => (lo.setWidth 16 + hi.setWidth 16) <<< 8
  | .littleEndian => lo.setWidth 16 ||| (hi.setWidth 16 <<< 8)

/-- The header record of the nine header bytes `hb[0..8]` (R24, R52, R84). -/
def headerRecord (c : AddrCombine) (hb : List Septet) : Header where
  dstLo := entry hb 0
  dstHi := entry hb 1
  srcLo := entry hb 2
  srcHi := entry hb 3
  version := (entry hb 4).setWidth 8
  cmdLo := entry hb 5
  cmdHi := entry hb 6
  frameCount := (entry hb 7).setWidth 8
  checksum := entry hb 8
  dst := comb c (entry hb 0) (entry hb 1)
  src := comb c (entry hb 2) (entry hb 3)
  cmd := comb c (entry hb 5) (entry hb 6)

/-- `ck7(hb[0..7])` (R86). -/
def headerCk (hb : List Septet) : Septet := ck7 (hb.take 8)

/-- The header checksum test (R86). -/
def headerGood (hb : List Septet) : Bool := entry hb 8 == headerCk hb

/-- The six bytes of a frame on the wire (R55). -/
structure WireFrame where
  s0 : Septet
  s1 : Septet
  s2 : Septet
  s3 : Septet
  msb : Septet
  checksum : Septet
deriving DecidableEq, Repr

/-- Frame `k` of a group: `buf[6k .. 6k+5]` (R97). -/
def frameAt (group : List Septet) (k : Nat) : WireFrame where
  s0 := entry group (frameLen * k)
  s1 := entry group (frameLen * k + 1)
  s2 := entry group (frameLen * k + 2)
  s3 := entry group (frameLen * k + 3)
  msb := entry group (frameLen * k + 4)
  checksum := entry group (frameLen * k + 5)

/-- `ck7(f[0..4])` (R98). -/
def frameCk (f : WireFrame) : Septet := ck7 [f.s0, f.s1, f.s2, f.s3, f.msb]

/-- The frame checksum test (R98). -/
def frameGood (f : WireFrame) : Bool := f.checksum == frameCk f

/-- `d_i = f[i] | (((f[4] >> i) & 1) << 7)` (R100). -/
def reconByte (s msb : Septet) (i : Nat) : Byte :=
  s.setWidth 8 ||| (((msb.setWidth 8 >>> i) &&& 1) <<< 7)

/-- The four data bytes of a frame (R100, R38). -/
def recon (f : WireFrame) : DataFrame where
  d0 := reconByte f.s0 f.msb 0
  d1 := reconByte f.s1 f.msb 1
  d2 := reconByte f.s2 f.msb 2
  d3 := reconByte f.s3 f.msb 3

/-- The lowest index of a frame that fails its checksum (R99). -/
def firstBad (group : List Septet) (fc : Nat) : Option Nat :=
  (List.range fc).find? fun k => !frameGood (frameAt group k)

/-- The decoded frames of a group, in wire order (R95, R103). -/
def dataFrames (group : List Septet) (fc : Nat) : List DataFrame :=
  (List.range fc).map fun k => recon (frameAt group k)

end Sys2Proof.Machine
end

