-- ==== Sys2Proof/Machine/Ops.lean ====
section
/-! DEFINITION. The named operations over the state (R11, R12, R35), the error abort as one shared
operation (R105), and the fetch of the next input. There is no return from an error (R117). -/

namespace Sys2Proof.Machine

/-- What the decoder reads of the state (R71). -/
def State.position (s : State) : Position where
  st := s.st
  len := s.buf.length
  declared := s.pend.map fun h => h.frameCount.toNat

/-- `buf <- buf ++ [b]` (R35 a). -/
def State.append (s : State) (b : Septet) : State := { s with buf := s.buf ++ [b] }

/-- `st <- f`, the buffer kept (R35 c, C1). -/
def State.goTo (s : State) (f : FsmState) : State := { s with st := f }

/-- `st <- WAIT_SYNC; buf <- []; pend <- none`: the state `INIT` (R31, R104). -/
def State.toInit (s : State) : State := { s with st := .waitSync, buf := [], pend := none }

/-- `st <- DETECT_HEADER_TYPE; buf <- []; pend <- none` (R69). -/
def State.resync (s : State) : State := { s with st := .detectHeaderType, buf := [], pend := none }

/-- `pend <- h; buf <- []; st <- DECODE_FRAMES` (R87). -/
def State.hold (s : State) (h : Header) : State := { s with st := .decodeFrames, buf := [], pend := some h }

/-- `emit E` (R12). -/
def State.emit (s : State) (e : Event) : State := { s with events := s.events ++ [e] }

/-- `raise K(byte, expected, index)`: the error abort (R105, R12). Nothing else is saved or changed. -/
def State.raise (s : State) (k : ErrorKind) (byte : Byte) (expected index : Septet) : State :=
  (s.emit (.error ⟨k.code, byte, expected, index⟩)).toInit

/-- A meaning that ends in `t`, called where the row of `i` applies; elsewhere the byte is another
instruction (DESIGN CHOICE, safe, log 6). -/
def State.inPlace (s : State) (i : Instr) (t : State) : Host.Outcome State Fault Refusal :=
  if i.enabledAt s.position then .next t else .fault .outOfPlace

/-- The next input and the state with it consumed (R42, R66). -/
def State.fetch (s : State) : Option (Input × State) :=
  match s.input with
  | [] => none
  | inp :: rest => some (inp, { s with input := rest })

/-- The state with a lone input put before all others, and, where the input is a DATA byte, in the place
where `loneContext` reads it (DESIGN CHOICE, log 8). -/
def State.place (s : State) (inp : Input) : State :=
  match inp with
  | .reset => { s with input := inp :: s.input }
  | .byte b =>
    match byteClass b with
    | .data =>
      { s with
        st := (loneContext inp).1, buf := (loneContext inp).2, pend := none, input := inp :: s.input }
    | .sync | .illegal => { s with input := inp :: s.input }

/-- The outcome of one computation given to the next; a stop stays that stop. -/
def andThen (o : Host.Outcome State Fault Refusal) (f : State → Host.Outcome State Fault Refusal) :
    Host.Outcome State Fault Refusal :=
  match o with
  | .next s => f s
  | .fault r => .fault r
  | .refused r => .refused r

end Sys2Proof.Machine
end

