-- ==== Sys2Proof/Machine/Detect.lean ====
section
/-! DEFINITION. Header-type detection: DATA.DETECT and the four version rows (spec/41). -/

namespace Sys2Proof.Machine

/-- DATA.DETECT (R76). -/
def execDataDetect (b : Septet) (s : State) : Host.Outcome State Fault Refusal :=
  s.inPlace (.dataDetect b) (s.append b)

/-- VER.V1 (R77, R78): the version byte is appended and the buffer kept (C1). -/
def execVerV1 (s : State) : Host.Outcome State Fault Refusal :=
  s.inPlace .verV1 ((s.append verCodeV1).goTo .decodeHeader1)

/-- VER.V2 (R77, R79): the version byte is appended and the buffer kept (C1). -/
def execVerV2 (s : State) : Host.Outcome State Fault Refusal :=
  s.inPlace .verV2 ((s.append verCodeV2).goTo .decodeHeader2)

/-- VER.UNSUP (R77, R80). -/
def execVerUnsup (s : State) : Host.Outcome State Fault Refusal :=
  s.inPlace .verUnsup
    ((s.append verCodeUnsup).raise .unsupportedProtocolVersion (verCodeUnsup.setWidth 8) 0 0)

/-- VER.OTHER (R77, R81). -/
def execVerOther (v : Septet) (s : State) : Host.Outcome State Fault Refusal :=
  s.inPlace (.verOther v) ((s.append v).raise .unrecognizedProtocolVersion (v.setWidth 8) 0 0)

end Sys2Proof.Machine
end

