-- ==== Sys2Proof/Machine/FrameUnpacker.lean ====
section
/-! DEFINITION. Frame unpacker: DATA.FRAMES, FRAMES.DONE (spec/43). -/

namespace Sys2Proof.Machine

/-- DATA.FRAMES (R94). -/
def execDataFrames (b : Septet) (s : State) : Host.Outcome State Fault Refusal :=
  s.inPlace (.dataFrames b) (s.append b)

/-- The report of a frame that fails its checksum (R113). The index has 7 bits (R63), enough for every
frame count that can be held (R25). -/
def State.frameFault (s : State) (k : Nat) : State :=
  let f := frameAt s.buf k
  s.raise .frameChecksumMismatch (f.checksum.setWidth 8) (frameCk f) (BitVec.ofNat 7 k)

/-- The action on a frame group held in the buffer, for the pending header `h`, in the order of R99: the
count check (R96), the frame checks, the packet (R103), the exit (R104). -/
def State.closeGroup (s : State) (h : Header) : State :=
  let fc := h.frameCount.toNat
  if s.buf.length ≠ frameLen * fc then
    s.raise .frameCountMismatch h.frameCount 0 0
  else
    match firstBad s.buf fc with
    | some k => s.frameFault k
    | none => (s.emit (.packet h (dataFrames s.buf fc))).toInit

/-- FRAMES.DONE (R95). Without a pending header the row does not apply. -/
def execFramesDone (c : Septet) (s : State) : Host.Outcome State Fault Refusal :=
  match s.pend with
  | some h => s.inPlace (.framesDone c) ((s.append c).closeGroup h)
  | none => .fault .outOfPlace

end Sys2Proof.Machine
end

