-- ==== Sys2Proof/Machine/HeaderParser.lean ====
section
/-! DEFINITION. Header parser and validator: DATA.HDR1, HDR1.CHECK, DATA.HDR2, HDR2.DONE (spec/42). -/

namespace Sys2Proof.Machine

/-- DATA.HDR1 (R83). -/
def execDataHdr1 (b : Septet) (s : State) : Host.Outcome State Fault Refusal :=
  s.inPlace (.dataHdr1 b) (s.append b)

/-- The validation of the header held in the buffer (R84): a bad checksum (R89), no frames (R88), or frames
to come (R87). -/
def State.checkHeader (s : State) : State :=
  let hb := s.buf
  let h := headerRecord s.addrCombine hb
  if !headerGood hb then
    s.raise .headerChecksumMismatch ((entry hb 8).setWidth 8) (headerCk hb) 0
  else if h.frameCount = 0 then
    (s.emit (.packet h [])).toInit
  else
    s.hold h

/-- HDR1.CHECK (R84). -/
def execHdr1Check (c : Septet) (s : State) : Host.Outcome State Fault Refusal :=
  s.inPlace (.hdr1Check c) (s.append c).checkHeader

/-- DATA.HDR2 (R91). -/
def execDataHdr2 (b : Septet) (s : State) : Host.Outcome State Fault Refusal :=
  s.inPlace (.dataHdr2 b) (s.append b)

/-- The datagram fault (R92, R64): it carries the buffered bytes, whatever they are (R93). -/
def State.datagramFault (s : State) : State :=
  (s.emit (.datagramFault ErrorKind.datagramNotImplemented.code s.buf)).toInit

/-- HDR2.DONE (R92). -/
def execHdr2Done (b : Septet) (s : State) : Host.Outcome State Fault Refusal :=
  s.inPlace (.hdr2Done b) (s.append b).datagramFault

end Sys2Proof.Machine
end

