-- ==== Sys2Proof/Machine/ResetInput.lean ====
section
/-! DEFINITION. The reset input (spec/70). -/

namespace Sys2Proof.Machine

/-- RESET (R121): no event; events already emitted stay emitted (log 2). -/
def execReset (s : State) : Host.Outcome State Fault Refusal := .next s.toInit

end Sys2Proof.Machine
end

