-- ==== Sys2Proof/Machine/Sync.lean ====
section
/-! DEFINITION. Byte classification and synchronisation: SYNC, ILLEGAL, DATA.WAIT_SYNC (spec/40). -/

namespace Sys2Proof.Machine

/-- SYNC (R69). -/
def execSync (s : State) : Host.Outcome State Fault Refusal := .next s.resync

/-- ILLEGAL (R70). -/
def execIllegal (b : Byte) (s : State) : Host.Outcome State Fault Refusal :=
  .next (s.raise .framingError b 0 0)

/-- DATA.WAIT_SYNC (R72): the byte is discarded. -/
def execDataWaitSync (b : Septet) (s : State) : Host.Outcome State Fault Refusal :=
  s.inPlace (.dataWaitSync b) s

end Sys2Proof.Machine
end

