-- ==== Sys2Proof/Machine/Dispatch.lean ====
section
/-! DEFINITION. One arm per instruction. -/

namespace Sys2Proof.Machine

def exec (i : Instr) (s : State) : Host.Outcome State Fault Refusal :=
  match i with
  | .sync => Sys2Proof.Machine.execSync s
  | .illegal b => Sys2Proof.Machine.execIllegal b s
  | .dataWaitSync b => Sys2Proof.Machine.execDataWaitSync b s
  | .dataDetect b => Sys2Proof.Machine.execDataDetect b s
  | .verV1 => Sys2Proof.Machine.execVerV1 s
  | .verV2 => Sys2Proof.Machine.execVerV2 s
  | .verUnsup => Sys2Proof.Machine.execVerUnsup s
  | .verOther v => Sys2Proof.Machine.execVerOther v s
  | .dataHdr1 b => Sys2Proof.Machine.execDataHdr1 b s
  | .hdr1Check c => Sys2Proof.Machine.execHdr1Check c s
  | .dataHdr2 b => Sys2Proof.Machine.execDataHdr2 b s
  | .hdr2Done b => Sys2Proof.Machine.execHdr2Done b s
  | .dataFrames b => Sys2Proof.Machine.execDataFrames b s
  | .framesDone c => Sys2Proof.Machine.execFramesDone c s
  | .reset => Sys2Proof.Machine.execReset s

end Sys2Proof.Machine
end

