-- ==== Sys2Proof/Machine/Feed.lean ====
section
/-! DEFINITION. The consumption of one input, and the feed of a chunk as its left fold (R66, R67). -/

namespace Sys2Proof.Machine

/-- `step(s, b)` of R66, and the reset input's step (R121): decode at the state's position and run the
instruction. -/
def consume (inp : Input) (s : State) : Host.Outcome State Fault Refusal :=
  match decode s.position inp with
  | .instr i => exec i s
  | .rejected r => .refused (.noAction r)

/-- `feed(s, inputs)` (R67), for a sequence of bytes and reset inputs. The events of the fold are appended
to `State.events` in order. -/
def feed : List Input → State → Host.Outcome State Fault Refusal
  | [], s => .next s
  | inp :: rest, s => andThen (consume inp s) (feed rest)

/-- The inputs a chunk of bytes stands for. -/
def chunk (bytes : List Byte) : List Input := bytes.map .byte

/-- One step: the first waiting input is consumed; with none waiting the state stays as it is (R74; DESIGN
CHOICE, log 5). -/
def stepOnce (s : State) : Host.Outcome State Fault Refusal :=
  match s.fetch with
  | some (inp, t) => consume inp t
  | none => .next s

end Sys2Proof.Machine
end

