-- ==== Sys2Proof/Machine/Step.lean ====
section
/-! DEFINITION. The step, and the state in which a table word is the next input. -/

namespace Sys2Proof.Machine

/-- One step of the block (R66, R74). -/
def step (s : State) : Host.Outcome State Fault Refusal := stepOnce s

/-- `s` with the input of a table word put where the next step takes its input, in the position where
`decodeTableWord` reads it (DESIGN CHOICE, log 8). A word that no input stands for changes nothing. -/
def State.withFetchWord (s : State) (nbits w : Nat) : State :=
  match tableInput nbits w with
  | some inp => s.place inp
  | none => s

end Sys2Proof.Machine
end

