-- ==== Sys2Proof/Machine/Wire.lean ====
section
/-! DEFINITION. The stream macros of R65: what a sender puts on the wire. -/

namespace Sys2Proof.Machine

/-- The operands of the macro `HDR1` (R65). -/
structure HeaderFields where
  a0 : Septet
  a1 : Septet
  a2 : Septet
  a3 : Septet
  c0 : Septet
  c1 : Septet
  n : Septet
deriving DecidableEq, Repr

/-- The first eight bytes of `HDR1` (R65, R52). -/
def HeaderFields.body (f : HeaderFields) : List Septet :=
  [f.a0, f.a1, f.a2, f.a3, verCodeV1, f.c0, f.c1, f.n]

/-- `HDR1(a0, a1, a2, a3, c0, c1, n)` followed by `BADCK(+d)`; with `d = 0` the macro itself (R65). -/
def HeaderFields.wire (f : HeaderFields) (d : Septet := 0) : List Septet := f.body ++ [ck7 f.body + d]

/-- `m = Σ_i ((d_i >> 7) & 1) << i` (R65). -/
def msbOf (d : DataFrame) : Septet :=
  ((d.d0 >>> 7).setWidth 7) ||| ((d.d1 >>> 7).setWidth 7 <<< 1) ||| ((d.d2 >>> 7).setWidth 7 <<< 2)
    ||| ((d.d3 >>> 7).setWidth 7 <<< 3)

/-- `FRAME(d0, d1, d2, d3)` (R65). -/
def frameOf (d : DataFrame) : WireFrame where
  s0 := d.d0.setWidth 7
  s1 := d.d1.setWidth 7
  s2 := d.d2.setWidth 7
  s3 := d.d3.setWidth 7
  msb := msbOf d
  checksum := ck7 [d.d0.setWidth 7, d.d1.setWidth 7, d.d2.setWidth 7, d.d3.setWidth 7, msbOf d]

/-- The six bytes of a frame in wire order (R55). -/
def WireFrame.bytes (f : WireFrame) : List Septet := [f.s0, f.s1, f.s2, f.s3, f.msb, f.checksum]

/-- The bytes of a sequence of frames in wire order (R97). -/
def groupBytes (fs : List WireFrame) : List Septet := fs.flatMap WireFrame.bytes

/-- `BADCK(+d)` after a frame (R65). -/
def WireFrame.badCk (d : Septet) (f : WireFrame) : WireFrame := { f with checksum := f.checksum + d }

/-- `HDR2`, its operands given as the four before the version byte and the ten after it (R65, R53). -/
def hdr2Wire (before after : List Septet) : List Septet := before ++ [verCodeV2] ++ after

/-- The input of a sequence of DATA bytes. -/
def dataInputs (s : List Septet) : List Input := s.map fun b => .byte (dataByte b)

/-- `SYNC HDR1(f)` followed by the given frames (R51). -/
def streamInputs (f : HeaderFields) (fs : List WireFrame) : List Input :=
  .byte syncByte :: dataInputs (f.wire ++ groupBytes fs)

/-- `SYNC HDR1(f) FRAME(d)×n` (R51, R65). -/
def packetInputs (f : HeaderFields) (frames : List DataFrame) : List Input :=
  streamInputs f (frames.map frameOf)

end Sys2Proof.Machine
end

