-- ==== Sys2Proof/Safety.lean ====
section
/-! DEFINITION. The invariants of the state between steps (R26, R27), what a well-formed header record and
event are (R24, R62 to R64), and what a safe outcome is. -/

namespace Sys2Proof.Machine

/-- The table of R27. That every entry of `buf` is below 0x80 is its type. -/
def State.Inv (s : State) : Prop :=
  (s.st = .waitSync → s.buf.length = 0 ∧ s.pend = none) ∧
  (s.st = .detectHeaderType → s.buf.length ≤ 4 ∧ s.pend = none) ∧
  (s.st = .decodeHeader1 → 5 ≤ s.buf.length ∧ s.buf.length ≤ 8 ∧ s.buf[4]? = some 0x10 ∧ s.pend = none) ∧
  (s.st = .decodeHeader2 → 5 ≤ s.buf.length ∧ s.buf.length ≤ 14 ∧ s.buf[4]? = some 0x20 ∧ s.pend = none) ∧
  (s.st = .decodeFrames → ∃ h, s.pend = some h ∧ 1 ≤ h.frameCount.toNat ∧ h.frameCount.toNat ≤ 127 ∧
    s.buf.length ≤ 6 * h.frameCount.toNat - 1)

/-- A header record taken from a validated protocol-1.0 header (R24, R86, R90). -/
structure Header.Valid (c : AddrCombine) (h : Header) : Prop where
  version : h.version = 0x10
  frameCount : h.frameCount.toNat ≤ 127
  checksum : h.checksum =
    ck7 [h.dstLo, h.dstHi, h.srcLo, h.srcHi, 0x10, h.cmdLo, h.cmdHi, h.frameCount.setWidth 7]
  dst : h.dst = comb c h.dstLo h.dstHi
  src : h.src = comb c h.srcLo h.srcHi
  cmd : h.cmd = comb c h.cmdLo h.cmdHi

/-- The rows of the table of R63 that the block emits (code 5 is never emitted, R112). -/
def ErrorReport.Valid (r : ErrorReport) : Prop :=
  (r.code = 1 ∧ 0x80 ≤ r.byte.toNat ∧ r.byte ≠ 0xAA ∧ r.expected = 0 ∧ r.index = 0) ∨
  (r.code = 2 ∧ r.byte = 0x30 ∧ r.expected = 0 ∧ r.index = 0) ∨
  (r.code = 3 ∧ r.byte.toNat ≤ 0x7F ∧ r.byte ≠ 0x10 ∧ r.byte ≠ 0x20 ∧ r.byte ≠ 0x30 ∧ r.expected = 0 ∧
    r.index = 0) ∨
  (r.code = 4 ∧ r.byte.toNat ≤ 0x7F ∧ r.byte.toNat ≠ r.expected.toNat ∧ r.index = 0) ∨
  (r.code = 6 ∧ r.byte.toNat ≤ 0x7F ∧ r.byte.toNat ≠ r.expected.toNat ∧ r.index.toNat ≤ 126)

/-- An event as R62, R63 and R64 describe it. -/
def Event.Valid (c : AddrCombine) : Event → Prop
  | .packet h frames => h.Valid c ∧ frames.length = h.frameCount.toNat
  | .error r => r.Valid
  | .datagramFault code raw => code = 7 ∧ raw.length = 15 ∧ raw[4]? = some 0x20

/-- The invariant R27, with a valid pending header (R24) and only valid events emitted. -/
structure State.Sound (s : State) : Prop where
  inv : s.Inv
  pend : ∀ h, s.pend = some h → h.Valid s.addrCombine
  events : ∀ e ∈ s.events, e.Valid s.addrCombine

/-- A safe outcome: the block goes on (R75, R131). -/
def Safe (o : Host.Outcome State Fault Refusal) : Prop := ∃ t, o = .next t

/-! ## Terms of the statements about frame groups and about the parameter -/

/-- The value of byte `j` of frame `k` in a frame group (R97). -/
def groupByte (g : List Septet) (k j : Nat) : Nat := (g.getD (6 * k + j) 0).toNat

/-- Frame `k` of a group is good, as R13 and R98 put it in integers: its six bytes add up to 127 modulo 128. -/
def GroupFrameGood (g : List Septet) (k : Nat) : Prop :=
  (groupByte g k 0 + groupByte g k 1 + groupByte g k 2 + groupByte g k 3 + groupByte g k 4 + groupByte g k 5)
    % 128 = 127

/-- Data byte `i` of frame `k` of a group, as R100 puts it in integers. -/
def groupData (g : List Septet) (k i : Nat) : Nat :=
  groupByte g k i + 128 * (groupByte g k 4 / 2 ^ i % 2)

/-- A header record without the three fields that `comb` computes (R85). -/
def Header.withoutCombined (h : Header) : Header := { h with dst := 0, src := 0, cmd := 0 }

/-- An event without the fields that `comb` computes (R85). -/
def Event.withoutCombined : Event → Event
  | .packet h frames => .packet h.withoutCombined frames
  | .error r => .error r
  | .datagramFault code raw => .datagramFault code raw

/-- Two states that agree in all but the parameter and the fields that `comb` computes (R85, R129). -/
structure State.AgreeButCombined (s t : State) : Prop where
  st : s.st = t.st
  buf : s.buf = t.buf
  input : s.input = t.input
  pend : s.pend.map Header.withoutCombined = t.pend.map Header.withoutCombined
  events : s.events.map Event.withoutCombined = t.events.map Event.withoutCombined

end Sys2Proof.Machine
end

