-- ==== Sys2Proof/Certificates/Slice0/Obligations.lean ====
section
/-! DEFINITION. The statements for the provers. Each formalises the rules of spec/ its docstring names, or is
marked as the model's own. A next state written out keeps the model's own field `input` (log 1) with the rest. -/

open Sys2Proof Sys2Proof.Machine

/-! ## Reset -/

/-- R31, R32: a newly created block is in `INIT` with no event emitted, and the reset input leads every state
to `INIT` and emits nothing. That the events emitted before the reset input stay in the sequence, where R32
lists it as empty, is the model's reading (log 2, DEDUCED). -/
def Obligations.ResetStateIsInit : Prop :=
  (State.reset.st = .waitSync ∧ State.reset.buf = [] ∧ State.reset.pend = none ∧ State.reset.events = []) ∧
  ∀ s : State, ∃ t, consume .reset s = .next t ∧ t.st = .waitSync ∧ t.buf = [] ∧ t.pend = none ∧
    t.events = s.events

/-- R121: the reset input runs RESET in every state: `INIT`, no event, the parameter kept. That the events
emitted before stay in the sequence is the model's reading of R32 (log 2, DEDUCED), and that the waiting inputs
stay is the model's own (log 1, DESIGN CHOICE). -/
def Obligations.ResetInputReturnsToInit : Prop :=
  ∀ s : State, decode s.position .reset = .instr .reset ∧
    exec .reset s = .next { s with st := .waitSync, buf := [], pend := none }

/-! ## Byte classification and synchronisation -/

/-- R49: the class of a byte, and how many bytes each class has. -/
def Obligations.ByteClassesPartitionTheBytes : Prop :=
  (∀ b : Byte, byteClass b =
    if b.toNat = 0xAA then .sync else if 0x80 ≤ b.toNat then .illegal else .data) ∧
  (List.range 256).countP (fun n => byteClass (BitVec.ofNat 8 n) = .sync) = 1 ∧
  (List.range 256).countP (fun n => byteClass (BitVec.ofNat 8 n) = .illegal) = 127 ∧
  (List.range 256).countP (fun n => byteClass (BitVec.ofNat 8 n) = .data) = 128

/-- R69: the sync byte, in any state. -/
def Obligations.SyncByteRestartsHeaderDetection : Prop :=
  ∀ s : State, decode s.position (.byte 0xAA) = .instr .sync ∧
    exec .sync s = .next { s with st := .detectHeaderType, buf := [], pend := none }

/-- R70, R108: a byte with its high bit set, other than the sync byte, in any state. -/
def Obligations.IllegalByteRaisesFramingError : Prop :=
  ∀ (s : State) (b : Byte), 0x80 ≤ b.toNat → b ≠ 0xAA →
    decode s.position (.byte b) = .instr (.illegal b) ∧
    exec (.illegal b) s = .next { s with
      st := .waitSync, buf := [], pend := none, events := s.events ++ [.error ⟨1, b, 0, 0⟩] }

/-- R72: a DATA byte while hunting for sync. -/
def Obligations.DataByteInWaitSyncIsDiscarded : Prop :=
  ∀ (s : State) (b : Septet), s.st = .waitSync →
    decode s.position (.byte (dataByte b)) = .instr (.dataWaitSync b) ∧
    exec (.dataWaitSync b) s = .next s

/-- R59: the action map, row by row, for `n = len(buf) + 1`. -/
def Obligations.ActionMapSelectsTheRow : Prop :=
  ∀ (s : State) (b : Septet) (d : Decoded), decode s.position (.byte (dataByte b)) = d →
    (s.st = .waitSync → d = .instr (.dataWaitSync b)) ∧
    (s.st = .detectHeaderType →
      (s.buf.length + 1 < 5 → d = .instr (.dataDetect b)) ∧
      (s.buf.length + 1 = 5 → d = .instr
        (if b = 0x10 then .verV1 else if b = 0x20 then .verV2 else if b = 0x30 then .verUnsup
         else .verOther b))) ∧
    (s.st = .decodeHeader1 →
      (s.buf.length + 1 < 9 → d = .instr (.dataHdr1 b)) ∧
      (s.buf.length + 1 = 9 → d = .instr (.hdr1Check b))) ∧
    (s.st = .decodeHeader2 →
      (s.buf.length + 1 < 15 → d = .instr (.dataHdr2 b)) ∧
      (s.buf.length + 1 = 15 → d = .instr (.hdr2Done b))) ∧
    (∀ h, s.st = .decodeFrames → s.pend = some h →
      (s.buf.length + 1 < 6 * h.frameCount.toNat → d = .instr (.dataFrames b)) ∧
      (s.buf.length + 1 = 6 * h.frameCount.toNat → d = .instr (.framesDone b)))

/-! ## Header-type detection -/

/-- R76: header bytes 0 to 3 are collected. -/
def Obligations.DetectCollectsHeaderBytes : Prop :=
  ∀ (s : State) (b : Septet), s.st = .detectHeaderType → s.buf.length ≤ 3 →
    decode s.position (.byte (dataByte b)) = .instr (.dataDetect b) ∧
    exec (.dataDetect b) s = .next { s with buf := s.buf ++ [b] }

/-- R78, R79 (with R77's append): the two accepted versions keep the five buffered bytes. -/
def Obligations.AcceptedVersionsSelectTheHeader : Prop :=
  ∀ s : State, s.st = .detectHeaderType → s.buf.length = 4 →
    decode s.position (.byte 0x10) = .instr .verV1 ∧
    exec .verV1 s = .next { s with st := .decodeHeader1, buf := s.buf ++ [0x10] } ∧
    decode s.position (.byte 0x20) = .instr .verV2 ∧
    exec .verV2 s = .next { s with st := .decodeHeader2, buf := s.buf ++ [0x20] }

/-- R80, R81, R109, R110: the other versions raise their error. -/
def Obligations.OtherVersionsRaiseTheirError : Prop :=
  ∀ s : State, s.st = .detectHeaderType → s.buf.length = 4 →
    decode s.position (.byte 0x30) = .instr .verUnsup ∧
    exec .verUnsup s = .next { s with
      st := .waitSync, buf := [], pend := none, events := s.events ++ [.error ⟨2, 0x30, 0, 0⟩] } ∧
    ∀ v : Septet, v ≠ 0x10 → v ≠ 0x20 → v ≠ 0x30 →
      decode s.position (.byte (dataByte v)) = .instr (.verOther v) ∧
      exec (.verOther v) s = .next { s with
        st := .waitSync, buf := [], pend := none, events := s.events ++ [.error ⟨3, dataByte v, 0, 0⟩] }

/-- R82: two states in `DETECT_HEADER_TYPE` that hold as many, but other, header bytes go to the same FSM
state with the same events on every input. -/
def Obligations.DetectionIgnoresEarlierHeaderBytes : Prop :=
  ∀ (s t : State) (other : List Septet), s.st = .detectHeaderType → other.length = s.buf.length →
    step s = .next t →
    ∃ u, step { s with buf := other } = .next u ∧ u.st = t.st ∧ u.events = t.events ∧ u.pend = t.pend ∧
      u.input = t.input ∧ u.buf.length = t.buf.length

/-! ## Protocol-1.0 header -/

/-- R83: header bytes 5 to 7 are collected. The statement needs no lower bound on the buffer's length. -/
def Obligations.Header1CollectsHeaderBytes : Prop :=
  ∀ (s : State) (b : Septet), s.st = .decodeHeader1 → s.buf.length ≤ 7 →
    decode s.position (.byte (dataByte b)) = .instr (.dataHdr1 b) ∧
    exec (.dataHdr1 b) s = .next { s with buf := s.buf ++ [b] }

/-- R24: the fields of the header record of nine header bytes. -/
def Obligations.HeaderRecordHoldsTheHeaderBytes : Prop :=
  ∀ (c : AddrCombine) (b0 b1 b2 b3 b4 b5 b6 b7 b8 : Septet),
    headerRecord c [b0, b1, b2, b3, b4, b5, b6, b7, b8] =
      { dstLo := b0, dstHi := b1, srcLo := b2, srcHi := b3, version := dataByte b4, cmdLo := b5, cmdHi := b6,
        frameCount := dataByte b7, checksum := b8, dst := comb c b0 b1, src := comb c b2 b3,
        cmd := comb c b5 b6 }

/-- R84, R86, R87: a header whose nine bytes add up to 127 modulo 128 (R13) and which declares frames is
held. -/
def Obligations.ValidHeaderIsHeldForItsFrames : Prop :=
  ∀ (s : State) (b0 b1 b2 b3 b4 b5 b6 b7 c : Septet), s.st = .decodeHeader1 →
    s.buf = [b0, b1, b2, b3, b4, b5, b6, b7] →
    (b0.toNat + b1.toNat + b2.toNat + b3.toNat + b4.toNat + b5.toNat + b6.toNat + b7.toNat + c.toNat) % 128
      = 127 →
    b7 ≠ 0 →
    exec (.hdr1Check c) s = .next { s with
      st := .decodeFrames, buf := [],
      pend := some (headerRecord s.addrCombine [b0, b1, b2, b3, b4, b5, b6, b7, c]) }

/-- R84, R86, R88: a valid header that declares no frames is a complete packet at once. -/
def Obligations.ValidHeaderWithoutFramesIsAPacket : Prop :=
  ∀ (s : State) (b0 b1 b2 b3 b4 b5 b6 c : Septet), s.st = .decodeHeader1 →
    s.buf = [b0, b1, b2, b3, b4, b5, b6, 0] →
    (b0.toNat + b1.toNat + b2.toNat + b3.toNat + b4.toNat + b5.toNat + b6.toNat + c.toNat) % 128 = 127 →
    exec (.hdr1Check c) s = .next { s with
      st := .waitSync, buf := [], pend := none,
      events := s.events ++ [.packet (headerRecord s.addrCombine [b0, b1, b2, b3, b4, b5, b6, 0, c]) []] }

/-- R84, R86, R89, R111: a header whose checksum byte differs from the inverted 7-bit sum of its eight bytes. -/
def Obligations.HeaderChecksumMismatchIsReported : Prop :=
  ∀ (s : State) (b0 b1 b2 b3 b4 b5 b6 b7 c : Septet), s.st = .decodeHeader1 →
    s.buf = [b0, b1, b2, b3, b4, b5, b6, b7] →
    c ≠ ~~~ (b0 + b1 + b2 + b3 + b4 + b5 + b6 + b7) →
    exec (.hdr1Check c) s = .next { s with
      st := .waitSync, buf := [], pend := none,
      events := s.events ++ [.error ⟨4, dataByte c, ~~~ (b0 + b1 + b2 + b3 + b4 + b5 + b6 + b7), 0⟩] }

/-! ## Protocol-2.0 header -/

/-- R91: datagram header bytes 5 to 13 are collected. The statement needs no lower bound on the buffer's
length. -/
def Obligations.Header2CollectsHeaderBytes : Prop :=
  ∀ (s : State) (b : Septet), s.st = .decodeHeader2 → s.buf.length ≤ 13 →
    decode s.position (.byte (dataByte b)) = .instr (.dataHdr2 b) ∧
    exec (.dataHdr2 b) s = .next { s with buf := s.buf ++ [b] }

/-- R92, R93, R114: the fifteenth byte raises the datagram fault with the fifteen bytes, whatever they are. -/
def Obligations.FifteenthByteIsADatagramFault : Prop :=
  ∀ (s : State) (b : Septet), s.st = .decodeHeader2 → s.buf.length = 14 →
    decode s.position (.byte (dataByte b)) = .instr (.hdr2Done b) ∧
    exec (.hdr2Done b) s = .next { s with
      st := .waitSync, buf := [], pend := none,
      events := s.events ++ [.datagramFault 7 (s.buf ++ [b])] }

/-! ## Frames -/

/-- R94: the bytes of a frame group are collected. -/
def Obligations.FramesAreCollectedToTheDeclaredCount : Prop :=
  ∀ (s : State) (h : Header) (b : Septet), s.st = .decodeFrames → s.pend = some h →
    s.buf.length + 1 < 6 * h.frameCount.toNat →
    decode s.position (.byte (dataByte b)) = .instr (.dataFrames b) ∧
    exec (.dataFrames b) s = .next { s with buf := s.buf ++ [b] }

/-- R95, R97, R98, R100, R103, R104: with every frame good, the last byte of the group emits the packet with
the reconstructed frames in wire order. -/
def Obligations.GoodFrameGroupIsEmittedAsPacket : Prop :=
  ∀ (s : State) (h : Header) (b : Septet), s.st = .decodeFrames → s.pend = some h →
    s.buf.length + 1 = 6 * h.frameCount.toNat →
    (∀ k < h.frameCount.toNat, GroupFrameGood (s.buf ++ [b]) k) →
    ∃ frames, exec (.framesDone b) s = .next { s with
        st := .waitSync, buf := [], pend := none, events := s.events ++ [.packet h frames] } ∧
      frames.length = h.frameCount.toNat ∧
      ∀ k < h.frameCount.toNat, ∃ d, frames[k]? = some d ∧
        d.d0.toNat = groupData (s.buf ++ [b]) k 0 ∧ d.d1.toNat = groupData (s.buf ++ [b]) k 1 ∧
        d.d2.toNat = groupData (s.buf ++ [b]) k 2 ∧ d.d3.toNat = groupData (s.buf ++ [b]) k 3

/-- R95, R98, R99, R113, R104: the lowest frame that fails its checksum is reported, and the packet is
discarded. The 7 bits of the index (R63) hold every `k` that a held frame count can have (R25). -/
def Obligations.LowestBadFrameIsReported : Prop :=
  ∀ (s : State) (h : Header) (b : Septet) (k : Nat), s.st = .decodeFrames → s.pend = some h →
    s.buf.length + 1 = 6 * h.frameCount.toNat → k < h.frameCount.toNat →
    (∀ j < k, GroupFrameGood (s.buf ++ [b]) j) → ¬ GroupFrameGood (s.buf ++ [b]) k →
    ∃ r : ErrorReport, exec (.framesDone b) s = .next { s with
        st := .waitSync, buf := [], pend := none, events := s.events ++ [.error r] } ∧
      r.code = 6 ∧ (k ≤ 127 → r.index.toNat = k) ∧ r.byte.toNat = groupByte (s.buf ++ [b]) k 5 ∧
      (r.expected.toNat + groupByte (s.buf ++ [b]) k 0 + groupByte (s.buf ++ [b]) k 1 +
        groupByte (s.buf ++ [b]) k 2 + groupByte (s.buf ++ [b]) k 3 + groupByte (s.buf ++ [b]) k 4) % 128
        = 127

/-- R96, R112, R63: no step emits an ERROR event with code 5, nor with the codes 0 and 7 that no ERROR event
carries. -/
def Obligations.FrameCountMismatchIsNeverEmitted : Prop :=
  ∀ (s t : State) (r : ErrorReport), step s = .next t → t.events = s.events ++ [.error r] →
    r.code ≠ 5 ∧ r.code ≠ 0 ∧ r.code ≠ 7

/-! ## Assembled values -/

/-- R13: the checksum function in the three forms of the rule, and when a checksum byte is valid. -/
def Obligations.ChecksumIsInvertedSum : Prop :=
  ∀ s : List Septet,
    (ck7 s).toNat = 0x7F ^^^ ((s.map BitVec.toNat).sum &&& 0x7F) ∧
    (ck7 s).toNat = 127 - (s.map BitVec.toNat).sum % 128 ∧
    ∀ c : Septet, c = ck7 s ↔ ((s.map BitVec.toNat).sum + c.toNat) % 128 = 127

/-- The formulas of R85, in integers: nothing is lost to the 16 bits. The second conjunct is R7's default. -/
def Obligations.CombineFormulas : Prop :=
  (∀ lo hi : Septet, (comb .precedence lo hi).toNat = (lo.toNat + hi.toNat) * 256 ∧
    (comb .littleEndian lo hi).toNat = lo.toNat + hi.toNat * 256) ∧
  State.reset.addrCombine = .precedence

/-- R101: bits 6:4 of the MSB-extension byte take no part in the data, raise no error of their own, and do take
part in the checksum. -/
def Obligations.MsbHighBitsCountOnlyInTheChecksum : Prop :=
  ∀ (f : WireFrame) (m : Septet), (∀ i < 4, m.getLsbD i = f.msb.getLsbD i) →
    recon { f with msb := m } = recon f ∧
    (∀ c : Septet, frameGood { f with msb := m, checksum := c } = true ↔ c = frameCk { f with msb := m }) ∧
    (m ≠ f.msb → frameCk { f with msb := m } ≠ frameCk f)

/-- R65, R102: the macro FRAME makes, for every four data bytes, a good frame that decodes to them. -/
def Obligations.FrameMacroIsInverseOfReconstruction : Prop :=
  ∀ d : DataFrame, frameGood (frameOf d) = true ∧ recon (frameOf d) = d

/-- R20, R61, R107: the numbers of the states, the event kinds and the error kinds. -/
def Obligations.NumbersOfStatesEventsAndErrors : Prop :=
  ([.waitSync, .detectHeaderType, .decodeHeader1, .decodeHeader2, .decodeFrames].map FsmState.encoding
    = [0b000, 0b001, 0b010, 0b011, 0b100]) ∧
  (∀ f : FsmState, f.encoding ≠ 0b101 ∧ f.encoding ≠ 0b110 ∧ f.encoding ≠ 0b111) ∧
  evKind none = 0b00 ∧ (∀ h fs, evKind (some (.packet h fs)) = 0b01) ∧
  (∀ r, evKind (some (.error r)) = 0b10) ∧ (∀ c raw, evKind (some (.datagramFault c raw)) = 0b11) ∧
  ([.framingError, .unsupportedProtocolVersion, .unrecognizedProtocolVersion, .headerChecksumMismatch,
    .frameCountMismatch, .frameChecksumMismatch, .datagramNotImplemented].map ErrorKind.code
    = [1, 2, 3, 4, 5, 6, 7])

/-! ## Decode and encode -/

/-- The decoder answers an instruction exactly when the instruction is well formed, its row applies at the
position, and the input is its encoding. -/
def Obligations.DecodeAndEncodeAgree : Prop :=
  ∀ (p : Position) (inp : Input) (i : Instr),
    decode p inp = .instr i ↔ (i.WellFormed ∧ i.enabledAt p = true ∧ encode i = inp)

/-- From every state that satisfies R27 every input has an instruction. -/
def Obligations.EveryInputHasAnInstruction : Prop :=
  ∀ (s : State) (inp : Input), s.Inv → ∃ i, decode s.position inp = .instr i

/-- Words written out from the encodings of opcode_table.json, read at the positions of their rows. -/
def Obligations.SampleWordsDecode : Prop :=
  decode ⟨.decodeFrames, 3, some 1⟩ (.byte 0b10101010) = .instr .sync ∧
  decode ⟨.waitSync, 0, none⟩ (.byte 0b10000001) = .instr (.illegal 0x81) ∧
  decode ⟨.waitSync, 0, none⟩ (.byte 0b01111111) = .instr (.dataWaitSync 0x7F) ∧
  decode ⟨.detectHeaderType, 3, none⟩ (.byte 0b00010000) = .instr (.dataDetect 0x10) ∧
  decode ⟨.detectHeaderType, 4, none⟩ (.byte 0b00010000) = .instr .verV1 ∧
  decode ⟨.detectHeaderType, 4, none⟩ (.byte 0b00100000) = .instr .verV2 ∧
  decode ⟨.detectHeaderType, 4, none⟩ (.byte 0b00110000) = .instr .verUnsup ∧
  decode ⟨.detectHeaderType, 4, none⟩ (.byte 0b00010001) = .instr (.verOther 0x11) ∧
  decode ⟨.decodeHeader1, 7, none⟩ (.byte 0b00000001) = .instr (.dataHdr1 1) ∧
  decode ⟨.decodeHeader1, 8, none⟩ (.byte 0b01101101) = .instr (.hdr1Check 0x6D) ∧
  decode ⟨.decodeHeader2, 13, none⟩ (.byte 0b00001101) = .instr (.dataHdr2 0x0D) ∧
  decode ⟨.decodeHeader2, 14, none⟩ (.byte 0b00001110) = .instr (.hdr2Done 0x0E) ∧
  decode ⟨.decodeFrames, 4, some 1⟩ (.byte 0b00001001) = .instr (.dataFrames 9) ∧
  decode ⟨.decodeFrames, 5, some 1⟩ (.byte 0b01110111) = .instr (.framesDone 0x77)

/-- The model's choice (log 8): the state in which a table word is the next input runs the instruction that
the word alone decodes to, with the word consumed. -/
def Obligations.TableWordIsTheNextInstruction : Prop :=
  ∀ (s : State) (nbits w : Nat) (i : Instr), decodeTableWord nbits w = some i →
    step (s.withFetchWord nbits w) = exec i { s.withFetchWord nbits w with input := s.input }

/-! ## The step -/

/-- R66: a step runs the instruction decoded from the first waiting input, with that input consumed. The list of
waiting inputs is the model's own (log 1, DESIGN CHOICE). -/
def Obligations.StepRunsTheDecodedInstruction : Prop :=
  ∀ (s : State) (inp : Input) (rest : List Input) (i : Instr), s.input = inp :: rest →
    decode s.position inp = .instr i → step s = exec i { s with input := rest }

/-- The model's choice (log 5) for R74: with no input waiting the state stays as it is. -/
def Obligations.StepWithoutInputKeepsTheState : Prop :=
  ∀ s : State, s.input = [] → step s = .next s

/-- The model's choice (log 6): a meaning completes exactly where its row applies, and elsewhere stops with
`outOfPlace`. -/
def Obligations.MeaningsCompleteWhereTheirRowApplies : Prop :=
  ∀ (i : Instr) (s : State),
    (i.enabledAt s.position = true → ∃ t, exec i s = .next t) ∧
    (i.enabledAt s.position = false → exec i s = .fault .outOfPlace)

/-- R68: a step emits at most one event, after all earlier ones. R68 speaks of bytes; that the reset input too
leaves the earlier events in the sequence is the model's reading of R32 (log 2, DEDUCED), and that a step with
no input waiting emits nothing is the model's choice (log 5). -/
def Obligations.StepEmitsAtMostOneEvent : Prop :=
  ∀ s t : State, step s = .next t → t.events = s.events ∨ ∃ e, t.events = s.events ++ [e]

/-- R105, R106: the step that emits an error ends in `INIT`. -/
def Obligations.ErrorStepEndsInInit : Prop :=
  ∀ (s t : State) (r : ErrorReport), step s = .next t → t.events = s.events ++ [.error r] →
    t.st = .waitSync ∧ t.buf = [] ∧ t.pend = none

/-- R115: a byte that ends a packet in progress emits exactly one event, unless it is the sync byte, and the
sync byte and reset emit none. That the earlier events are still in the sequence after the reset input is the
model's reading of R32 (log 2, DEDUCED). -/
def Obligations.PacketEndsSilentlyOnlyOnSyncOrReset : Prop :=
  ∀ (s t : State) (inp : Input) (rest : List Input), s.input = inp :: rest → step s = .next t →
    (inp = .reset ∨ inp = .byte 0xAA → t.events = s.events) ∧
    (inp ≠ .reset → inp ≠ .byte 0xAA → s.st ≠ .waitSync → t.st = .waitSync →
      ∃ e, t.events = s.events ++ [e])

/-- R43: between steps, the only inputs without any effect are a DATA byte in `WAIT_SYNC` and a sync byte in
`DETECT_HEADER_TYPE` with an empty buffer. -/
def Obligations.ByteWithoutEffect : Prop :=
  ∀ (s : State) (b : Byte), s.Inv →
    (consume (.byte b) s = .next s ↔
      (s.st = .waitSync ∧ byteClass b = .data) ∨
      (s.st = .detectHeaderType ∧ s.buf = [] ∧ b = 0xAA))

/-- R21, R26: the FSM transitions a step can make. -/
def Obligations.StepFollowsTheTransitionGraph : Prop :=
  ∀ s t : State, step s = .next t →
    t.st = s.st ∨ t.st = .waitSync ∨ t.st = .detectHeaderType ∨
    (s.st = .detectHeaderType ∧ (t.st = .decodeHeader1 ∨ t.st = .decodeHeader2)) ∨
    (s.st = .decodeHeader1 ∧ t.st = .decodeFrames)

/-- R29, R121: no step writes the parameter. R42: a step consumes one byte; that it is the first entry of the
list of waiting inputs, and that the later ones stay, is the model's own (log 1, DESIGN CHOICE), as is the step
with no input waiting (log 5, DESIGN CHOICE). -/
def Obligations.StepKeepsParameterAndLaterInputs : Prop :=
  ∀ s t : State, step s = .next t → t.addrCombine = s.addrCombine ∧ t.input = s.input.tail

/-! ## Invariants -/

/-- R27 at reset. -/
def Obligations.ResetStateSatisfiesTheInvariant : Prop := State.reset.Inv

/-- R27: every step keeps the table of the state between steps. -/
def Obligations.StepKeepsTheInvariant : Prop :=
  ∀ s t : State, s.Inv → step s = .next t → t.Inv

/-- R75, R131: no input makes the block stop. -/
def Obligations.NoInputStopsTheBlock : Prop := ∀ s : State, s.Inv → Safe (step s)

/-- R26: between steps a header is pending exactly in `DECODE_FRAMES`. -/
def Obligations.HeaderIsPendingOnlyInDecodeFrames : Prop :=
  ∀ s : State, s.Inv → (s.pend ≠ none ↔ s.st = .decodeFrames)

/-- R8, R25: between steps the buffer has room for one more entry within the least capacity. -/
def Obligations.BufferNeverOutgrowsTheLeastCapacity : Prop :=
  ∀ s : State, s.Inv → s.buf.length + 1 ≤ Config.minBufCapacity

/-- The stronger invariant at reset. -/
def Obligations.ResetStateIsSound : Prop := State.reset.Sound

/-- R24, R62, R63, R64, R90: every step keeps the pending header a validated one and every emitted event as
the rules describe it. -/
def Obligations.StepKeepsSoundness : Prop :=
  ∀ s t : State, s.Sound → step s = .next t → t.Sound

/-- R85, R129: two states that agree in all but the parameter and the fields `comb` computes go on agreeing:
the checksum tests and every transition are independent of `comb`. -/
def Obligations.TransitionsAreIndependentOfTheParameter : Prop :=
  ∀ s t s' : State, s.AgreeButCombined t → step s = .next s' →
    ∃ t', step t = .next t' ∧ s'.AgreeButCombined t'

/-! ## Feeding a stream -/

/-- R73: feeding `u ++ v` is feeding `u` and then, from the state that left, `v`; the events of a feed come after
the earlier ones. R73 speaks of bytes; that the second clause also holds of a feed with reset inputs in it is the
model's reading of R32 (log 2, DEDUCED). -/
def Obligations.FeedIsIndependentOfChunks : Prop :=
  (∀ (u v : List Input) (s : State), feed (u ++ v) s = andThen (feed u s) (feed v)) ∧
  ∀ (u : List Input) (s t : State), feed u s = .next t → ∃ es, t.events = s.events ++ es

/-- R67 for the machine: running one step per waiting input is the feed of those inputs, and leaves the later
inputs waiting. The list of waiting inputs, resets among the bytes, is the model's own (log 1, DESIGN CHOICE). -/
def Obligations.RunningTheStepsIsFeeding : Prop :=
  ∀ (xs rest : List Input) (s t : State), feed xs { s with input := rest } = .next t →
    core.run xs.length { s with input := xs ++ rest } = .next t

/-- R51, R65, R103: from every state, `SYNC HDR1(f) FRAME(d)×n` ends in `INIT` and emits exactly the packet of
its header and its frames. -/
def Obligations.PacketOnTheWireIsDecoded : Prop :=
  ∀ (f : HeaderFields) (frames : List DataFrame) (s : State), frames.length = f.n.toNat →
    feed (packetInputs f frames) s = .next { s with
      st := .waitSync, buf := [], pend := none,
      events := s.events ++ [.packet (headerRecord s.addrCombine f.wire) frames] }

/-- R89 with R127 and C3: a header whose checksum byte is changed to any other DATA value emits exactly one
error, and no packet. -/
def Obligations.CorruptedHeaderChecksumIsOneError : Prop :=
  ∀ (f : HeaderFields) (d : Septet) (s : State), d ≠ 0 →
    feed (.byte 0xAA :: dataInputs (f.wire d)) s = .next { s with
      st := .waitSync, buf := [], pend := none,
      events := s.events ++ [.error ⟨4, dataByte (ck7 f.body + d), ck7 f.body, 0⟩] }

/-- R95, R99, R113 with R127 and C3: a packet in which one frame's checksum byte is changed to any other DATA
value emits exactly one error, with that frame's index, and no packet. -/
def Obligations.CorruptedFrameChecksumIsOneError : Prop :=
  ∀ (f : HeaderFields) (frames : List DataFrame) (k : Nat) (d : Septet) (x : DataFrame) (s : State),
    frames.length = f.n.toNat → frames[k]? = some x → d ≠ 0 →
    feed (streamInputs f ((frames.map frameOf).modify k (WireFrame.badCk d))) s = .next { s with
      st := .waitSync, buf := [], pend := none,
      events := s.events ++
        [.error ⟨6, dataByte ((frameOf x).checksum + d), (frameOf x).checksum, BitVec.ofNat 7 k⟩] }

/-- R53, R65, R92, R128: from every state, `SYNC HDR2(…)` ends in `INIT` and emits exactly the datagram fault with
its fifteen bytes. -/
def Obligations.DatagramHeaderOnTheWireIsOneFault : Prop :=
  ∀ (before after : List Septet) (s : State), before.length = 4 → after.length = 10 →
    feed (.byte 0xAA :: dataInputs (hdr2Wire before after)) s = .next { s with
      st := .waitSync, buf := [], pend := none,
      events := s.events ++ [.datagramFault 7 (hdr2Wire before after)] }

/-- R70, R108: a run of illegal bytes emits one FramingError for each, in order, from every state. -/
def Obligations.EveryIllegalByteIsOneFramingError : Prop :=
  ∀ (bs : List Byte) (s : State), bs ≠ [] → (∀ b ∈ bs, byteClass b = .illegal) →
    feed (chunk bs) s = .next { s with
      st := .waitSync, buf := [], pend := none,
      events := s.events ++ bs.map fun b => .error ⟨1, b, 0, 0⟩ }

/-- R72, R104: any number of DATA bytes in `WAIT_SYNC` changes nothing and emits nothing. -/
def Obligations.DataOutsidePacketsIsSkipped : Prop :=
  ∀ (bs : List Septet) (s : State), s.st = .waitSync → feed (dataInputs bs) s = .next s
end

