-- ==== Sys2Proof/Laws/Decode.lean ====
section
/-! SUPPORT. The small lemmas of the decoder: DATA bytes and their payloads, byte classes, and the choice
between the rows of the action map. -/

namespace Sys2Proof

@[simp] theorem payload_dataByte (b : Septet) : payload (dataByte b) = b := by
  simp [payload, dataByte]

theorem dataByte_toNat (b : Septet) : (dataByte b).toNat = b.toNat := by
  have := b.isLt
  simp [dataByte]
  omega

theorem bit7_dataByte (b : Septet) : (dataByte b)[7] = false := by
  simp [dataByte]

theorem dataByte_ne_syncByte (b : Septet) : dataByte b ≠ 0xAA#8 := by
  intro h
  have := bit7_dataByte b
  simp [h] at this

@[simp] theorem byteClass_dataByte (b : Septet) : byteClass (dataByte b) = .data := by
  simp [byteClass, dataByte_ne_syncByte, bit7_dataByte]

/-- A byte of class DATA is its payload with bit 7 clear. -/
theorem dataByte_payload {b : Byte} (h : byteClass b = .data) : dataByte (payload b) = b := by
  have h7 : b[7] = false := by
    unfold byteClass at h
    split at h <;> simp_all
  apply BitVec.eq_of_getLsbD_eq
  intro i hi
  simp only [dataByte, payload, BitVec.getLsbD_setWidth]
  by_cases h' : i = 7
  · subst h'; simp [h7]
  · have : i < 7 := by omega
    simp [this, hi]

theorem byteClass_eq_sync {b : Byte} : byteClass b = .sync ↔ b = syncByte := by
  unfold byteClass
  split
  · simp_all
  · split <;> simp_all

theorem byteClass_eq_illegal {b : Byte} : byteClass b = .illegal ↔ (Instr.illegal b).WellFormed := by
  unfold byteClass
  split
  · simp_all [Instr.WellFormed, Instr.wellFormed]
  · split <;> simp_all [Instr.WellFormed, Instr.wellFormed]

/-- What the choice between two rows answers. -/
theorem whenReached_eq_instr {n need : Nat} {collect act i : Instr} {r : Rejection} :
    whenReached n need collect act r = .instr i ↔ (n < need ∧ i = collect) ∨ (n = need ∧ i = act) := by
  unfold whenReached
  split
  · have : n ≠ need := by omega
    simp_all [eq_comm]
  · split <;> simp_all [eq_comm]

theorem decode_dataByte (p : Position) (b : Septet) : decode p (.byte (dataByte b)) = decodeData p b := by
  simp [decode]

end Sys2Proof
end

