-- ==== Sys2Proof/Laws/State.lean ====
section
/-! SUPPORT. One lemma per field per operation over the state, and the parts of the decoder's position. -/

namespace Sys2Proof.Machine.State

variable (s : State)

@[simp] theorem append_st (b : Septet) : (s.append b).st = s.st := rfl
@[simp] theorem append_buf (b : Septet) : (s.append b).buf = s.buf ++ [b] := rfl
@[simp] theorem append_pend (b : Septet) : (s.append b).pend = s.pend := rfl
@[simp] theorem append_events (b : Septet) : (s.append b).events = s.events := rfl
@[simp] theorem append_input (b : Septet) : (s.append b).input = s.input := rfl
@[simp] theorem append_addrCombine (b : Septet) : (s.append b).addrCombine = s.addrCombine := rfl

@[simp] theorem goTo_st (f : FsmState) : (s.goTo f).st = f := rfl
@[simp] theorem goTo_buf (f : FsmState) : (s.goTo f).buf = s.buf := rfl
@[simp] theorem goTo_pend (f : FsmState) : (s.goTo f).pend = s.pend := rfl
@[simp] theorem goTo_events (f : FsmState) : (s.goTo f).events = s.events := rfl
@[simp] theorem goTo_input (f : FsmState) : (s.goTo f).input = s.input := rfl
@[simp] theorem goTo_addrCombine (f : FsmState) : (s.goTo f).addrCombine = s.addrCombine := rfl

@[simp] theorem toInit_st : (s.toInit).st = .waitSync := rfl
@[simp] theorem toInit_buf : (s.toInit).buf = [] := rfl
@[simp] theorem toInit_pend : (s.toInit).pend = none := rfl
@[simp] theorem toInit_events : (s.toInit).events = s.events := rfl
@[simp] theorem toInit_input : (s.toInit).input = s.input := rfl
@[simp] theorem toInit_addrCombine : (s.toInit).addrCombine = s.addrCombine := rfl

@[simp] theorem resync_st : (s.resync).st = .detectHeaderType := rfl
@[simp] theorem resync_buf : (s.resync).buf = [] := rfl
@[simp] theorem resync_pend : (s.resync).pend = none := rfl
@[simp] theorem resync_events : (s.resync).events = s.events := rfl
@[simp] theorem resync_input : (s.resync).input = s.input := rfl
@[simp] theorem resync_addrCombine : (s.resync).addrCombine = s.addrCombine := rfl

@[simp] theorem hold_st (h : Header) : (s.hold h).st = .decodeFrames := rfl
@[simp] theorem hold_buf (h : Header) : (s.hold h).buf = [] := rfl
@[simp] theorem hold_pend (h : Header) : (s.hold h).pend = some h := rfl
@[simp] theorem hold_events (h : Header) : (s.hold h).events = s.events := rfl
@[simp] theorem hold_input (h : Header) : (s.hold h).input = s.input := rfl
@[simp] theorem hold_addrCombine (h : Header) : (s.hold h).addrCombine = s.addrCombine := rfl

@[simp] theorem emit_st (e : Event) : (s.emit e).st = s.st := rfl
@[simp] theorem emit_buf (e : Event) : (s.emit e).buf = s.buf := rfl
@[simp] theorem emit_pend (e : Event) : (s.emit e).pend = s.pend := rfl
@[simp] theorem emit_events (e : Event) : (s.emit e).events = s.events ++ [e] := rfl
@[simp] theorem emit_input (e : Event) : (s.emit e).input = s.input := rfl
@[simp] theorem emit_addrCombine (e : Event) : (s.emit e).addrCombine = s.addrCombine := rfl

@[simp] theorem raise_st (k : ErrorKind) (y : Byte) (x n : Septet) : (s.raise k y x n).st = .waitSync := rfl
@[simp] theorem raise_buf (k : ErrorKind) (y : Byte) (x n : Septet) : (s.raise k y x n).buf = [] := rfl
@[simp] theorem raise_pend (k : ErrorKind) (y : Byte) (x n : Septet) : (s.raise k y x n).pend = none := rfl
@[simp] theorem raise_events (k : ErrorKind) (y : Byte) (x n : Septet) :
    (s.raise k y x n).events = s.events ++ [.error ⟨k.code, y, x, n⟩] := rfl
@[simp] theorem raise_input (k : ErrorKind) (y : Byte) (x n : Septet) :
    (s.raise k y x n).input = s.input := rfl
@[simp] theorem raise_addrCombine (k : ErrorKind) (y : Byte) (x n : Septet) :
    (s.raise k y x n).addrCombine = s.addrCombine := rfl

@[simp] theorem datagramFault_st : (s.datagramFault).st = .waitSync := rfl
@[simp] theorem datagramFault_buf : (s.datagramFault).buf = [] := rfl
@[simp] theorem datagramFault_pend : (s.datagramFault).pend = none := rfl
@[simp] theorem datagramFault_events :
    (s.datagramFault).events = s.events ++ [.datagramFault 7 s.buf] := rfl
@[simp] theorem datagramFault_input : (s.datagramFault).input = s.input := rfl
@[simp] theorem datagramFault_addrCombine : (s.datagramFault).addrCombine = s.addrCombine := rfl

@[simp] theorem frameFault_st (k : Nat) : (s.frameFault k).st = .waitSync := rfl
@[simp] theorem frameFault_buf (k : Nat) : (s.frameFault k).buf = [] := rfl
@[simp] theorem frameFault_pend (k : Nat) : (s.frameFault k).pend = none := rfl
@[simp] theorem frameFault_events (k : Nat) :
    (s.frameFault k).events =
      s.events ++ [.error ⟨6, (frameAt s.buf k).checksum.setWidth 8, frameCk (frameAt s.buf k), BitVec.ofNat 7 k⟩] := rfl
@[simp] theorem frameFault_input (k : Nat) : (s.frameFault k).input = s.input := rfl
@[simp] theorem frameFault_addrCombine (k : Nat) : (s.frameFault k).addrCombine = s.addrCombine := rfl

@[simp] theorem position_st : s.position.st = s.st := rfl
@[simp] theorem position_len : s.position.len = s.buf.length := rfl
@[simp] theorem position_declared : s.position.declared = s.pend.map fun h => h.frameCount.toNat := rfl

end Sys2Proof.Machine.State
end

