-- ==== Sys2Proof/Laws/Ops.lean ====
section
/-! SUPPORT. What each shared operation can do, said once. -/

namespace Sys2Proof.Machine

open Host (Outcome)

/-! ## Outcomes -/

/-- A guarded meaning answers a next state exactly where its row applies. -/
theorem inPlace_eq_next {s t u : State} {i : Instr} :
    s.inPlace i t = .next u ↔ i.enabledAt s.position = true ∧ u = t := by
  by_cases h : i.enabledAt s.position = true <;> simp [State.inPlace, h, eq_comm (a := t)]

theorem inPlace_of_enabled {s t : State} {i : Instr} (h : i.enabledAt s.position = true) :
    s.inPlace i t = .next t := by
  simp [State.inPlace, h]

theorem inPlace_of_not_enabled {s t : State} {i : Instr} (h : i.enabledAt s.position = false) :
    s.inPlace i t = .fault .outOfPlace := by
  simp [State.inPlace, h]

theorem andThen_eq_next {o : Outcome State Fault Refusal} {f : State → Outcome State Fault Refusal}
    {t : State} : andThen o f = .next t ↔ ∃ s, o = .next s ∧ f s = .next t := by
  cases o <;> simp [andThen]

@[simp] theorem andThen_next (s : State) (f : State → Outcome State Fault Refusal) :
    andThen (.next s) f = f s := rfl

/-! ## The fetch -/

theorem fetch_of_cons {s : State} {inp : Input} {rest : List Input} (h : s.input = inp :: rest) :
    s.fetch = some (inp, { s with input := rest }) := by
  simp [State.fetch, h]

theorem fetch_of_nil {s : State} (h : s.input = []) : s.fetch = none := by
  simp [State.fetch, h]

theorem step_of_cons {s : State} {inp : Input} {rest : List Input} (h : s.input = inp :: rest) :
    step s = consume inp { s with input := rest } := by
  simp [step, stepOnce, fetch_of_cons h]

theorem step_of_nil {s : State} (h : s.input = []) : step s = .next s := by
  simp [step, stepOnce, fetch_of_nil h]

/-- What a step that answers a next state does: it waits, or it runs the instruction decoded from the first
input, on the state with that input consumed. -/
theorem step_eq_next {s t : State} (h : step s = .next t) :
    (s.input = [] ∧ t = s) ∨
    ∃ inp rest i, s.input = inp :: rest ∧ decode s.position inp = .instr i ∧
      exec i { s with input := rest } = .next t := by
  cases hi : s.input with
  | nil => rw [step_of_nil hi] at h; simp_all
  | cons inp rest =>
    rw [step_of_cons hi] at h
    refine .inr ⟨inp, rest, ?_⟩
    unfold consume at h
    split at h
    · rename_i i hd
      exact ⟨i, rfl, hd, h⟩
    · cases h

theorem consume_of_decode {s : State} {inp : Input} {i : Instr} (h : decode s.position inp = .instr i) :
    consume inp s = exec i s := by
  simp [consume, h]

@[simp] theorem feed_nil (s : State) : feed [] s = .next s := rfl

theorem feed_cons (inp : Input) (rest : List Input) (s : State) :
    feed (inp :: rest) s = andThen (consume inp s) (feed rest) := rfl

/-- Running the machine one step more, where the first step goes on. -/
theorem run_succ_of_next {k : Nat} {s t : State} (h : step s = .next t) :
    Sys2Proof.core.run (k + 1) s = Sys2Proof.core.run k t := by
  have hc : Sys2Proof.core.step s = .next t := h
  exact (Host.Core.run.eq_2 Sys2Proof.core s k).trans (by rw [hc])

/-! ## The checks -/

/-- The three outcomes of the header check (R84): mismatch, no frames, frames to come. -/
theorem checkHeader_cases (s : State) :
    (entry s.buf 8 ≠ headerCk s.buf ∧
      s.checkHeader = s.raise .headerChecksumMismatch ((entry s.buf 8).setWidth 8) (headerCk s.buf) 0) ∨
    (entry s.buf 8 = headerCk s.buf ∧ (headerRecord s.addrCombine s.buf).frameCount = 0 ∧
      s.checkHeader = (s.emit (.packet (headerRecord s.addrCombine s.buf) [])).toInit) ∨
    (entry s.buf 8 = headerCk s.buf ∧ (headerRecord s.addrCombine s.buf).frameCount ≠ 0 ∧
      s.checkHeader = s.hold (headerRecord s.addrCombine s.buf)) := by
  by_cases hk : entry s.buf 8 = headerCk s.buf
  · by_cases hf : (headerRecord s.addrCombine s.buf).frameCount = 0
    · exact .inr (.inl ⟨hk, hf, by simp [State.checkHeader, headerGood, hk, hf]⟩)
    · exact .inr (.inr ⟨hk, hf, by simp only [State.checkHeader, headerGood, hk, if_neg hf]; simp⟩)
  · exact .inl ⟨hk, by simp [State.checkHeader, headerGood, hk]⟩

/-- A reported frame is the lowest bad one (R99). -/
theorem firstBad_eq_some {g : List Septet} {fc k : Nat} :
    firstBad g fc = some k ↔
      k < fc ∧ frameGood (frameAt g k) = false ∧ ∀ j < k, frameGood (frameAt g j) = true := by
  unfold firstBad
  rw [List.find?_range_eq_some]
  simp
  tauto

/-- No frame is reported exactly when every frame is good. -/
theorem firstBad_eq_none {g : List Septet} {fc : Nat} :
    firstBad g fc = none ↔ ∀ k < fc, frameGood (frameAt g k) = true := by
  simp [firstBad]

/-- The three outcomes of the action on a frame group, in the order of R99. -/
theorem closeGroup_cases (s : State) (h : Header) :
    (s.buf.length ≠ frameLen * h.frameCount.toNat ∧
      s.closeGroup h = s.raise .frameCountMismatch h.frameCount 0 0) ∨
    (s.buf.length = frameLen * h.frameCount.toNat ∧
      ∃ k, firstBad s.buf h.frameCount.toNat = some k ∧ s.closeGroup h = s.frameFault k) ∨
    (s.buf.length = frameLen * h.frameCount.toNat ∧ firstBad s.buf h.frameCount.toNat = none ∧
      s.closeGroup h = (s.emit (.packet h (dataFrames s.buf h.frameCount.toNat))).toInit) := by
  by_cases hl : s.buf.length = frameLen * h.frameCount.toNat
  · cases hb : firstBad s.buf h.frameCount.toNat with
    | none => exact .inr (.inr ⟨hl, rfl, by simp [State.closeGroup, hl, hb]⟩)
    | some k => exact .inr (.inl ⟨hl, k, rfl, by simp [State.closeGroup, hl, hb]⟩)
  · exact .inl ⟨hl, by simp [State.closeGroup, hl]⟩

@[simp] theorem dataFrames_length (g : List Septet) (fc : Nat) : (dataFrames g fc).length = fc := by
  simp [dataFrames]

@[simp] theorem checkHeader_input (s : State) : s.checkHeader.input = s.input := by
  rcases checkHeader_cases s with ⟨_, h⟩ | ⟨_, _, h⟩ | ⟨_, _, h⟩ <;> simp [h]

@[simp] theorem checkHeader_addrCombine (s : State) : s.checkHeader.addrCombine = s.addrCombine := by
  rcases checkHeader_cases s with ⟨_, h⟩ | ⟨_, _, h⟩ | ⟨_, _, h⟩ <;> simp [h]

@[simp] theorem closeGroup_input (s : State) (h : Header) : (s.closeGroup h).input = s.input := by
  rcases closeGroup_cases s h with ⟨_, e⟩ | ⟨_, k, _, e⟩ | ⟨_, _, e⟩ <;> simp [e]

@[simp] theorem closeGroup_addrCombine (s : State) (h : Header) :
    (s.closeGroup h).addrCombine = s.addrCombine := by
  rcases closeGroup_cases s h with ⟨_, e⟩ | ⟨_, k, _, e⟩ | ⟨_, _, e⟩ <;> simp [e]

end Sys2Proof.Machine
end

