-- ==== Sys2Proof/Laws/Meanings.lean ====
section
/-! SUPPORT. Where each row applies, in terms of the state, and what each meaning answers: a next state
exactly there, and which one. -/

namespace Sys2Proof.Machine

variable {s t : State}

/-! ## Where the rows apply -/

theorem dataWaitSync_enabled {b : Septet} :
    (Instr.dataWaitSync b).enabledAt s.position = true ↔ s.st = .waitSync := by
  simp [Instr.enabledAt]

theorem dataDetect_enabled {b : Septet} :
    (Instr.dataDetect b).enabledAt s.position = true ↔ s.st = .detectHeaderType ∧ s.buf.length < 4 := by
  simp [Instr.enabledAt]
  omega

theorem verV1_enabled :
    Instr.verV1.enabledAt s.position = true ↔ s.st = .detectHeaderType ∧ s.buf.length = 4 := by
  simp [Instr.enabledAt]

theorem verV2_enabled :
    Instr.verV2.enabledAt s.position = true ↔ s.st = .detectHeaderType ∧ s.buf.length = 4 := by
  simp [Instr.enabledAt]

theorem verUnsup_enabled :
    Instr.verUnsup.enabledAt s.position = true ↔ s.st = .detectHeaderType ∧ s.buf.length = 4 := by
  simp [Instr.enabledAt]

theorem verOther_enabled {v : Septet} :
    (Instr.verOther v).enabledAt s.position = true ↔ s.st = .detectHeaderType ∧ s.buf.length = 4 := by
  simp [Instr.enabledAt]

theorem dataHdr1_enabled {b : Septet} :
    (Instr.dataHdr1 b).enabledAt s.position = true ↔ s.st = .decodeHeader1 ∧ s.buf.length < 8 := by
  simp [Instr.enabledAt]
  omega

theorem hdr1Check_enabled {c : Septet} :
    (Instr.hdr1Check c).enabledAt s.position = true ↔ s.st = .decodeHeader1 ∧ s.buf.length = 8 := by
  simp [Instr.enabledAt]

theorem dataHdr2_enabled {b : Septet} :
    (Instr.dataHdr2 b).enabledAt s.position = true ↔ s.st = .decodeHeader2 ∧ s.buf.length < 14 := by
  simp [Instr.enabledAt]
  omega

theorem hdr2Done_enabled {b : Septet} :
    (Instr.hdr2Done b).enabledAt s.position = true ↔ s.st = .decodeHeader2 ∧ s.buf.length = 14 := by
  simp [Instr.enabledAt]

theorem dataFrames_enabled {b : Septet} :
    (Instr.dataFrames b).enabledAt s.position = true ↔
      s.st = .decodeFrames ∧ ∃ h, s.pend = some h ∧ s.buf.length + 1 < 6 * h.frameCount.toNat := by
  cases hp : s.pend <;> simp [Instr.enabledAt, hp]

theorem framesDone_enabled {b : Septet} :
    (Instr.framesDone b).enabledAt s.position = true ↔
      s.st = .decodeFrames ∧ ∃ h, s.pend = some h ∧ s.buf.length + 1 = 6 * h.frameCount.toNat := by
  cases hp : s.pend <;> simp [Instr.enabledAt, hp]

/-! ## What the meanings answer -/

theorem execSync_eq_next : execSync s = .next t ↔ t = s.resync := by
  simp [execSync, eq_comm]

theorem execIllegal_eq_next {b : Byte} : execIllegal b s = .next t ↔ t = s.raise .framingError b 0 0 := by
  simp [execIllegal, eq_comm]

theorem execReset_eq_next : execReset s = .next t ↔ t = s.toInit := by
  simp [execReset, eq_comm]

theorem execDataWaitSync_eq_next {b : Septet} :
    execDataWaitSync b s = .next t ↔
      s.st = .waitSync ∧ t = s := by
  rw [execDataWaitSync, inPlace_eq_next, dataWaitSync_enabled]

theorem execDataDetect_eq_next {b : Septet} :
    execDataDetect b s = .next t ↔
      (s.st = .detectHeaderType ∧ s.buf.length < 4) ∧ t = s.append b := by
  rw [execDataDetect, inPlace_eq_next, dataDetect_enabled]

theorem execVerV1_eq_next :
    execVerV1 s = .next t ↔
      (s.st = .detectHeaderType ∧ s.buf.length = 4) ∧ t = (s.append 0x10).goTo .decodeHeader1 := by
  rw [execVerV1, inPlace_eq_next, verV1_enabled]

theorem execVerV2_eq_next :
    execVerV2 s = .next t ↔
      (s.st = .detectHeaderType ∧ s.buf.length = 4) ∧ t = (s.append 0x20).goTo .decodeHeader2 := by
  rw [execVerV2, inPlace_eq_next, verV2_enabled]

theorem execVerUnsup_eq_next :
    execVerUnsup s = .next t ↔
      (s.st = .detectHeaderType ∧ s.buf.length = 4) ∧ t = (s.append 0x30).raise .unsupportedProtocolVersion 0x30 0 0 := by
  rw [execVerUnsup, inPlace_eq_next, verUnsup_enabled]; rfl

theorem execVerOther_eq_next {v : Septet} :
    execVerOther v s = .next t ↔
      (s.st = .detectHeaderType ∧ s.buf.length = 4) ∧ t = (s.append v).raise .unrecognizedProtocolVersion (v.setWidth 8) 0 0 := by
  rw [execVerOther, inPlace_eq_next, verOther_enabled]

theorem execDataHdr1_eq_next {b : Septet} :
    execDataHdr1 b s = .next t ↔
      (s.st = .decodeHeader1 ∧ s.buf.length < 8) ∧ t = s.append b := by
  rw [execDataHdr1, inPlace_eq_next, dataHdr1_enabled]

theorem execHdr1Check_eq_next {c : Septet} :
    execHdr1Check c s = .next t ↔
      (s.st = .decodeHeader1 ∧ s.buf.length = 8) ∧ t = (s.append c).checkHeader := by
  rw [execHdr1Check, inPlace_eq_next, hdr1Check_enabled]

theorem execDataHdr2_eq_next {b : Septet} :
    execDataHdr2 b s = .next t ↔
      (s.st = .decodeHeader2 ∧ s.buf.length < 14) ∧ t = s.append b := by
  rw [execDataHdr2, inPlace_eq_next, dataHdr2_enabled]

theorem execHdr2Done_eq_next {b : Septet} :
    execHdr2Done b s = .next t ↔
      (s.st = .decodeHeader2 ∧ s.buf.length = 14) ∧ t = (s.append b).datagramFault := by
  rw [execHdr2Done, inPlace_eq_next, hdr2Done_enabled]

theorem execDataFrames_eq_next {b : Septet} :
    execDataFrames b s = .next t ↔
      (s.st = .decodeFrames ∧ ∃ h, s.pend = some h ∧ s.buf.length + 1 < 6 * h.frameCount.toNat) ∧
        t = s.append b := by
  rw [execDataFrames, inPlace_eq_next, dataFrames_enabled]

theorem execFramesDone_eq_next {c : Septet} :
    execFramesDone c s = .next t ↔
      s.st = .decodeFrames ∧ ∃ h, s.pend = some h ∧ s.buf.length + 1 = 6 * h.frameCount.toNat ∧
        t = (s.append c).closeGroup h := by
  unfold execFramesDone
  cases hp : s.pend with
  | none => simp
  | some h => simp [inPlace_eq_next, framesDone_enabled, hp, and_assoc]

end Sys2Proof.Machine
end

