-- ==== Sys2Proof/Laws/Effect.lean ====
section
/-! SUPPORT. Once and whole: what running an instruction can do. Every invariant is proved by cases on
`Effect`. -/

namespace Sys2Proof.Machine

/-- `Effect s i t`: running `i` in `s` leads to `t`; each case holds what the row and the checks demand. -/
inductive Effect (s : State) : Instr → State → Prop
  | sync : Effect s .sync s.resync
  | illegal (b : Byte) : Effect s (.illegal b) (s.raise .framingError b 0 0)
  | reset : Effect s .reset s.toInit
  | discard (b : Septet) (hs : s.st = .waitSync) : Effect s (.dataWaitSync b) s
  | collectDetect (b : Septet) (hs : s.st = .detectHeaderType) (hl : s.buf.length < 4) :
      Effect s (.dataDetect b) (s.append b)
  | collectHeader1 (b : Septet) (hs : s.st = .decodeHeader1) (hl : s.buf.length < 8) :
      Effect s (.dataHdr1 b) (s.append b)
  | collectHeader2 (b : Septet) (hs : s.st = .decodeHeader2) (hl : s.buf.length < 14) :
      Effect s (.dataHdr2 b) (s.append b)
  | collectFrames (b : Septet) (h : Header) (hs : s.st = .decodeFrames) (hp : s.pend = some h)
      (hl : s.buf.length + 1 < 6 * h.frameCount.toNat) : Effect s (.dataFrames b) (s.append b)
  | version1 (hs : s.st = .detectHeaderType) (hl : s.buf.length = 4) :
      Effect s .verV1 ((s.append 0x10).goTo .decodeHeader1)
  | version2 (hs : s.st = .detectHeaderType) (hl : s.buf.length = 4) :
      Effect s .verV2 ((s.append 0x20).goTo .decodeHeader2)
  | unsupported (hs : s.st = .detectHeaderType) (hl : s.buf.length = 4) :
      Effect s .verUnsup ((s.append 0x30).raise .unsupportedProtocolVersion 0x30 0 0)
  | unrecognized (v : Septet) (hs : s.st = .detectHeaderType) (hl : s.buf.length = 4) :
      Effect s (.verOther v) ((s.append v).raise .unrecognizedProtocolVersion (v.setWidth 8) 0 0)
  | headerMismatch (c : Septet) (hs : s.st = .decodeHeader1) (hl : s.buf.length = 8)
      (hc : c ≠ ck7 s.buf) :
      Effect s (.hdr1Check c) ((s.append c).raise .headerChecksumMismatch (c.setWidth 8) (ck7 s.buf) 0)
  | headerPacket (c : Septet) (hs : s.st = .decodeHeader1) (hl : s.buf.length = 8) (hc : c = ck7 s.buf)
      (hf : (headerRecord s.addrCombine (s.buf ++ [c])).frameCount = 0) :
      Effect s (.hdr1Check c)
        ((s.append c).emit (.packet (headerRecord s.addrCombine (s.buf ++ [c])) [])).toInit
  | headerHeld (c : Septet) (hs : s.st = .decodeHeader1) (hl : s.buf.length = 8) (hc : c = ck7 s.buf)
      (hf : (headerRecord s.addrCombine (s.buf ++ [c])).frameCount ≠ 0) :
      Effect s (.hdr1Check c) ((s.append c).hold (headerRecord s.addrCombine (s.buf ++ [c])))
  | datagram (b : Septet) (hs : s.st = .decodeHeader2) (hl : s.buf.length = 14) :
      Effect s (.hdr2Done b) (s.append b).datagramFault
  | frameMismatch (c : Septet) (h : Header) (k : Nat) (hs : s.st = .decodeFrames) (hp : s.pend = some h)
      (hl : s.buf.length + 1 = 6 * h.frameCount.toNat)
      (hk : firstBad (s.buf ++ [c]) h.frameCount.toNat = some k) :
      Effect s (.framesDone c) ((s.append c).frameFault k)
  | packet (c : Septet) (h : Header) (hs : s.st = .decodeFrames) (hp : s.pend = some h)
      (hl : s.buf.length + 1 = 6 * h.frameCount.toNat)
      (hk : firstBad (s.buf ++ [c]) h.frameCount.toNat = none) :
      Effect s (.framesDone c)
        ((s.append c).emit (.packet h (dataFrames (s.buf ++ [c]) h.frameCount.toNat))).toInit

theorem entry_append_last {g : List Septet} {c : Septet} {n : Nat} (h : g.length = n) :
    entry (g ++ [c]) n = c := by
  subst h; simp [entry]

theorem headerCk_append {g : List Septet} {c : Septet} (h : g.length = 8) :
    headerCk (g ++ [c]) = ck7 g := by
  simp [headerCk, ← h]

/-- The header check with the ninth byte just appended. -/
theorem effect_hdr1Check {s : State} (c : Septet) (hs : s.st = .decodeHeader1) (hl : s.buf.length = 8) :
    Effect s (.hdr1Check c) (s.append c).checkHeader := by
  have e8 : entry (s.append c).buf 8 = c := entry_append_last hl
  have eck : headerCk (s.append c).buf = ck7 s.buf := headerCk_append hl
  rcases checkHeader_cases (s.append c) with ⟨hk, e⟩ | ⟨hk, hf, e⟩ | ⟨hk, hf, e⟩
  · rw [e, e8, eck]
    exact .headerMismatch c hs hl (by rwa [e8, eck] at hk)
  · rw [e]
    exact .headerPacket c hs hl (by rwa [e8, eck] at hk) hf
  · rw [e]
    exact .headerHeld c hs hl (by rwa [e8, eck] at hk) hf

/-- The action on a frame group with its last byte just appended: the count check passes (R96). -/
theorem effect_framesDone {s : State} {h : Header} (c : Septet) (hs : s.st = .decodeFrames)
    (hp : s.pend = some h) (hl : s.buf.length + 1 = 6 * h.frameCount.toNat) :
    Effect s (.framesDone c) ((s.append c).closeGroup h) := by
  rcases closeGroup_cases (s.append c) h with ⟨hn, _⟩ | ⟨_, k, hk, e⟩ | ⟨_, hk, e⟩
  · exact absurd (by simpa using hl) hn
  · rw [e]
    exact .frameMismatch c h k hs hp hl hk
  · rw [e]
    exact .packet c h hs hp hl hk

/-- Running an instruction answers a next state only as `Effect` says. -/
theorem effect_of_exec {i : Instr} {s t : State} (h : exec i s = .next t) : Effect s i t := by
  cases i with
  | sync => rw [execSync_eq_next.mp h]; exact .sync
  | illegal b => rw [execIllegal_eq_next.mp h]; exact .illegal b
  | reset => rw [execReset_eq_next.mp h]; exact .reset
  | dataWaitSync b => obtain ⟨hs, rfl⟩ := execDataWaitSync_eq_next.mp h; exact .discard b hs
  | dataDetect b => obtain ⟨⟨hs, hl⟩, rfl⟩ := execDataDetect_eq_next.mp h; exact .collectDetect b hs hl
  | verV1 => obtain ⟨⟨hs, hl⟩, rfl⟩ := execVerV1_eq_next.mp h; exact .version1 hs hl
  | verV2 => obtain ⟨⟨hs, hl⟩, rfl⟩ := execVerV2_eq_next.mp h; exact .version2 hs hl
  | verUnsup => obtain ⟨⟨hs, hl⟩, rfl⟩ := execVerUnsup_eq_next.mp h; exact .unsupported hs hl
  | verOther v => obtain ⟨⟨hs, hl⟩, rfl⟩ := execVerOther_eq_next.mp h; exact .unrecognized v hs hl
  | dataHdr1 b => obtain ⟨⟨hs, hl⟩, rfl⟩ := execDataHdr1_eq_next.mp h; exact .collectHeader1 b hs hl
  | hdr1Check c => obtain ⟨⟨hs, hl⟩, rfl⟩ := execHdr1Check_eq_next.mp h; exact effect_hdr1Check c hs hl
  | dataHdr2 b => obtain ⟨⟨hs, hl⟩, rfl⟩ := execDataHdr2_eq_next.mp h; exact .collectHeader2 b hs hl
  | hdr2Done b => obtain ⟨⟨hs, hl⟩, rfl⟩ := execHdr2Done_eq_next.mp h; exact .datagram b hs hl
  | dataFrames b =>
    obtain ⟨⟨hs, d, hp, hl⟩, rfl⟩ := execDataFrames_eq_next.mp h; exact .collectFrames b d hs hp hl
  | framesDone c =>
    obtain ⟨hs, d, hp, hl, rfl⟩ := execFramesDone_eq_next.mp h; exact effect_framesDone c hs hp hl

/-- What a step that answers a next state does. -/
theorem effect_of_step {s t : State} (h : step s = .next t) :
    (s.input = [] ∧ t = s) ∨
    ∃ inp rest i, s.input = inp :: rest ∧ decode s.position inp = .instr i ∧
      Effect { s with input := rest } i t := by
  rcases step_eq_next h with h | ⟨inp, rest, i, hi, hd, he⟩
  · exact .inl h
  · exact .inr ⟨inp, rest, i, hi, hd, effect_of_exec he⟩

end Sys2Proof.Machine
end

