-- ==== Sys2Proof/Laws/Feed.lean ====
section
/-! SUPPORT. The meanings neither read nor write the waiting inputs, and the placing of a lone word. -/

namespace Sys2Proof.Machine

theorem checkHeader_withInput (s : State) (l : List Input) :
    ({ s with input := l } : State).checkHeader = { s.checkHeader with input := l } := by
  unfold State.checkHeader
  simp only
  split
  · rfl
  · split <;> rfl

theorem closeGroup_withInput (s : State) (h : Header) (l : List Input) :
    ({ s with input := l } : State).closeGroup h = { s.closeGroup h with input := l } := by
  unfold State.closeGroup
  simp only
  split
  · rfl
  · split <;> rfl

/-- An instruction runs the same whatever inputs wait, and leaves them waiting. -/
theorem exec_withInput {i : Instr} {s t : State} (l : List Input) (h : exec i s = .next t) :
    exec i { s with input := l } = .next { t with input := l } := by
  cases i with
  | framesDone c =>
    obtain ⟨hs, d, hp, hl, rfl⟩ := execFramesDone_eq_next.mp h
    exact execFramesDone_eq_next.mpr ⟨hs, d, hp, hl, (closeGroup_withInput (s.append c) d l).symm⟩
  | hdr1Check c =>
    obtain ⟨hs, rfl⟩ := execHdr1Check_eq_next.mp h
    exact execHdr1Check_eq_next.mpr ⟨hs, (checkHeader_withInput (s.append c) l).symm⟩
  | sync => cases h; rfl
  | illegal b => cases h; rfl
  | reset => cases h; rfl
  | _ =>
    obtain ⟨he, rfl⟩ := inPlace_eq_next.mp h
    exact inPlace_eq_next.mpr ⟨he, rfl⟩

theorem consume_withInput {inp : Input} {s t : State} (l : List Input) (h : consume inp s = .next t) :
    consume inp { s with input := l } = .next { t with input := l } := by
  unfold consume at h
  split at h
  · rename_i i hd
    rw [consume_of_decode (i := i) (by exact hd)]
    exact exec_withInput l h
  · cases h

/-- A placed input is the next one, before all others. -/
@[simp] theorem place_input (s : State) (inp : Input) : (s.place inp).input = inp :: s.input := by
  cases inp with
  | reset => rfl
  | byte b =>
    unfold State.place
    simp only
    split <;> rfl

/-- A placed DATA byte stands at the position where a lone input is read. -/
theorem place_position_data {s : State} {b : Byte} (h : byteClass b = .data) :
    (s.place (.byte b)).position = lonePosition (.byte b) := by
  simp [State.place, h, State.position, lonePosition]

end Sys2Proof.Machine
end

