-- ==== Sys2Proof/Laws/Frames.lean ====
section
/-! SUPPORT. The checksum sum over a concatenation, and the frames of a group written out as frames. -/

namespace Sys2Proof.Machine

@[simp] theorem septetSum_nil : septetSum [] = 0 := rfl

@[simp] theorem septetSum_cons (b : Septet) (s : List Septet) : septetSum (b :: s) = b.toNat + septetSum s := by
  simp [septetSum]

@[simp] theorem septetSum_append (a b : List Septet) : septetSum (a ++ b) = septetSum a + septetSum b := by
  simp [septetSum]

@[simp] theorem wireFrame_bytes_length (f : WireFrame) : f.bytes.length = 6 := rfl

@[simp] theorem groupBytes_nil : groupBytes [] = [] := rfl

theorem groupBytes_cons (f : WireFrame) (fs : List WireFrame) :
    groupBytes (f :: fs) = f.bytes ++ groupBytes fs := rfl

@[simp] theorem groupBytes_length (fs : List WireFrame) : (groupBytes fs).length = 6 * fs.length := by
  induction fs with
  | nil => rfl
  | cons f fs ih => simp [groupBytes_cons, ih]; omega

/-- The first frame of a group that starts with a frame. -/
theorem frameAt_bytes_append_zero (f : WireFrame) (g : List Septet) : frameAt (f.bytes ++ g) 0 = f := by
  cases f
  rfl

/-- The later frames of a group that starts with a frame. -/
theorem frameAt_bytes_append_succ (f : WireFrame) (g : List Septet) (k : Nat) :
    frameAt (f.bytes ++ g) (k + 1) = frameAt g k := by
  have shift (j : Nat) : entry (f.bytes ++ g) (6 * (k + 1) + j) = entry g (6 * k + j) := by
    simp only [entry, List.getD_eq_getElem?_getD]
    rw [List.getElem?_append_right (by simp; omega)]
    congr 2
    simp
    omega
  have shift0 := shift 0
  simp only [Nat.add_zero] at shift0
  simp only [frameAt, shift, shift0]

/-- Frame `k` of a group of wire frames is the `k`-th of them (R97). -/
theorem frameAt_groupBytes (fs : List WireFrame) (k : Nat) (h : k < fs.length) :
    frameAt (groupBytes fs) k = fs[k] := by
  induction fs generalizing k with
  | nil => simp at h
  | cons f fs ih =>
    rw [groupBytes_cons]
    cases k with
    | zero => exact frameAt_bytes_append_zero f _
    | succ k =>
      rw [frameAt_bytes_append_succ]
      exact ih k (by simpa using h)

/-- The decoded frames, one by one. -/
theorem dataFrames_getElem? {g : List Septet} {fc k : Nat} (h : k < fc) :
    (dataFrames g fc)[k]? = some (recon (frameAt g k)) := by
  simp [dataFrames, h]

end Sys2Proof.Machine
end

