-- ==== Sys2Proof/Laws/PerInstr.lean ====
section
/-! SUPPORT. Per instruction: the input an instruction is encoded as decodes to it wherever its row
applies. -/

namespace Sys2Proof.Laws.RoundTrip

/-- Decoding the encoding of a well-formed instruction, where its row applies, gives it back. -/
def Statement (i : Instr) : Prop :=
  i.WellFormed → ∀ p : Position, i.enabledAt p = true → decode p (encode i) = .instr i

theorem sync : Statement .sync := fun _ _ _ => rfl

theorem illegal (b : Byte) : Statement (.illegal b) := fun hw p _ => by
  simp [encode, decode, byteClass_eq_illegal.mpr hw]

theorem dataWaitSync (b : Septet) : Statement (.dataWaitSync b) := fun _ p hp => by
  simp_all [encode, decode_dataByte, decodeData, Instr.enabledAt]

theorem dataDetect (b : Septet) : Statement (.dataDetect b) := fun _ p hp => by
  simp_all [encode, decode_dataByte, decodeData, Instr.enabledAt, whenReached]

theorem verV1 : Statement .verV1 := fun _ p hp => by
  simp_all [encode, decode_dataByte, decodeData, Instr.enabledAt, whenReached, decodeVersion]

theorem verV2 : Statement .verV2 := fun _ p hp => by
  simp_all [encode, decode_dataByte, decodeData, Instr.enabledAt, whenReached, decodeVersion]

theorem verUnsup : Statement .verUnsup := fun _ p hp => by
  simp_all [encode, decode_dataByte, decodeData, Instr.enabledAt, whenReached, decodeVersion]

theorem verOther (v : Septet) : Statement (.verOther v) := fun hw p hp => by
  simp_all [Instr.WellFormed, Instr.wellFormed, encode, decode_dataByte, decodeData, Instr.enabledAt,
    whenReached, decodeVersion]

theorem dataHdr1 (b : Septet) : Statement (.dataHdr1 b) := fun _ p hp => by
  simp_all [encode, decode_dataByte, decodeData, Instr.enabledAt, whenReached]

theorem hdr1Check (c : Septet) : Statement (.hdr1Check c) := fun _ p hp => by
  simp_all [encode, decode_dataByte, decodeData, Instr.enabledAt, whenReached]

theorem dataHdr2 (b : Septet) : Statement (.dataHdr2 b) := fun _ p hp => by
  simp_all [encode, decode_dataByte, decodeData, Instr.enabledAt, whenReached]

theorem hdr2Done (b : Septet) : Statement (.hdr2Done b) := fun _ p hp => by
  simp_all [encode, decode_dataByte, decodeData, Instr.enabledAt, whenReached]

theorem dataFrames (b : Septet) : Statement (.dataFrames b) := fun _ p hp => by
  cases hd : p.declared <;> simp_all [encode, decode_dataByte, decodeData, Instr.enabledAt, whenReached]

theorem framesDone (c : Septet) : Statement (.framesDone c) := fun _ p hp => by
  cases hd : p.declared <;> simp_all [encode, decode_dataByte, decodeData, Instr.enabledAt, whenReached]

theorem reset : Statement .reset := fun _ _ _ => rfl

end Sys2Proof.Laws.RoundTrip
end

