-- ==== Sys2Proof/Tests/Slice0.lean ====
section
/-! SUPPORT. The author's own tests: the checks of WellFormed, words written out from opcode_table.json, one
step from the examples and vectors of spec/ (the source of each is named), and a witness for the hypotheses
of each statement. -/

namespace Sys2Proof.Tests

open Sys2Proof.Machine Host

/-! ## Helpers -/

/-- A state of the default instance with the given inputs waiting. -/
def at' (st : FsmState) (buf : List Septet) (pend : Option Header) (input : List Input) : State :=
  { State.reset with st := st, buf := buf, pend := pend, input := input }

/-- What a next state shows of `st`, `buf`, `pend` and the events. -/
def view (o : Outcome State Fault Refusal) : Option (FsmState × List Septet × Option Header × List Event) :=
  match o with
  | .next s => some (s.st, s.buf, s.pend, s.events)
  | .fault _ | .refused _ => none

/-- Whether an outcome is a next state. -/
def goesOn (o : Outcome State Fault Refusal) : Bool := (view o).isSome

/-- The header `00 00 00 00 10 00 01 n k` of the vectors, under PRECEDENCE, its fields written out from R24
and R85. -/
def header (n : Byte) (k : Septet) : Header :=
  ⟨0, 0, 0, 0, 0x10, 0, 1, n, k, 0, 0, 0x0100⟩

/-! ## Well-formedness: an ill-formed term for each check -/

theorem test_illegal_needs_bit7 : ¬ (Instr.illegal 0x7F).WellFormed := by decide
theorem test_illegal_excludes_sync : ¬ (Instr.illegal 0xAA).WellFormed := by decide
theorem test_illegal_accepts_neighbour : (Instr.illegal 0xAB).WellFormed := by decide
theorem test_verOther_excludes_v1 : ¬ (Instr.verOther 0x10).WellFormed := by decide
theorem test_verOther_excludes_v2 : ¬ (Instr.verOther 0x20).WellFormed := by decide
theorem test_verOther_excludes_unsup : ¬ (Instr.verOther 0x30).WellFormed := by decide
theorem test_verOther_accepts_zero : (Instr.verOther 0).WellFormed := by decide

/-! ## Decoding: words written out from the column `encoding` of opcode_table.json -/

theorem test_decode_sync : decode ⟨.decodeFrames, 5, some 1⟩ (.byte 0b10101010) = .instr .sync := by decide
theorem test_decode_illegal : decode ⟨.waitSync, 0, none⟩ (.byte 0b10101001) = .instr (.illegal 0xA9) := by
  decide
theorem test_decode_dataWaitSync :
    decode ⟨.waitSync, 0, none⟩ (.byte 0b00010000) = .instr (.dataWaitSync 0x10) := by decide
theorem test_decode_dataDetect :
    decode ⟨.detectHeaderType, 3, none⟩ (.byte 0b00100000) = .instr (.dataDetect 0x20) := by decide
theorem test_decode_verV1 : decode ⟨.detectHeaderType, 4, none⟩ (.byte 0b00010000) = .instr .verV1 := by decide
theorem test_decode_verV2 : decode ⟨.detectHeaderType, 4, none⟩ (.byte 0b00100000) = .instr .verV2 := by decide
theorem test_decode_verUnsup : decode ⟨.detectHeaderType, 4, none⟩ (.byte 0b00110000) = .instr .verUnsup := by
  decide
theorem test_decode_verOther :
    decode ⟨.detectHeaderType, 4, none⟩ (.byte 0b01111111) = .instr (.verOther 0x7F) := by decide
theorem test_decode_dataHdr1 :
    decode ⟨.decodeHeader1, 7, none⟩ (.byte 0b00000011) = .instr (.dataHdr1 3) := by decide
theorem test_decode_hdr1Check :
    decode ⟨.decodeHeader1, 8, none⟩ (.byte 0b01101101) = .instr (.hdr1Check 0x6D) := by decide
theorem test_decode_dataHdr2 :
    decode ⟨.decodeHeader2, 13, none⟩ (.byte 0b00001101) = .instr (.dataHdr2 0x0D) := by decide
theorem test_decode_hdr2Done :
    decode ⟨.decodeHeader2, 14, none⟩ (.byte 0b00001110) = .instr (.hdr2Done 0x0E) := by decide
theorem test_decode_dataFrames :
    decode ⟨.decodeFrames, 10, some 2⟩ (.byte 0b00000010) = .instr (.dataFrames 2) := by decide
theorem test_decode_framesDone :
    decode ⟨.decodeFrames, 11, some 2⟩ (.byte 0b01010100) = .instr (.framesDone 0x54) := by decide
theorem test_decode_reset : decode ⟨.decodeHeader1, 6, none⟩ .reset = .instr .reset := by decide
theorem test_decode_rejects_past_version :
    decode ⟨.detectHeaderType, 5, none⟩ (.byte 0) = .rejected .pastVersion := by decide

/-! ## Words given alone -/

theorem test_word_sync : decodeTableWord 8 0xAA = some .sync := by decide
theorem test_word_illegal : decodeTableWord 8 0x80 = some (.illegal 0x80) := by decide
theorem test_word_data : decodeTableWord 8 0x00 = some (.dataWaitSync 0) := by decide
theorem test_word_versions : decodeTableWord 8 0x10 = some .verV1 ∧ decodeTableWord 8 0x20 = some .verV2 ∧
    decodeTableWord 8 0x30 = some .verUnsup := by decide
theorem test_word_reset : decodeTableWord 0 0 = some .reset := by decide
theorem test_word_too_wide : decodeTableWord 16 0xAA = none := by decide

/-- The fetched word VER.V1 runs as the first step after reset. -/
theorem test_fetch_verV1 : view (step (State.reset.withFetchWord 8 0x10)) =
    some (.decodeHeader1, [0, 0, 0, 0, 0x10], none, []) := by decide

/-! ## Checksums and values -/

/-- The table of spec/95 section 2.1. -/
theorem test_ck7_table :
    ck7 [0, 0, 0, 0, 0x10, 0, 1, 1] = 0x6D ∧ ck7 [0, 0, 0, 0, 0] = 0x7F ∧
    ck7 [0, 0, 0, 0, 0x10, 0, 1, 0] = 0x6E ∧ ck7 [0x7F, 0x7F, 0x7F, 0x7F, 0x10, 0x7F, 0x7F, 0x7F] = 0x76 ∧
    ck7 [0x7F, 0x7F, 0x7F, 0x7F, 0x0F] = 0x74 ∧ ck7 [0, 0, 0, 0, 0x70] = 0x0F ∧
    ck7 [0x12, 0x34, 0x56, 0x78, 0x10, 1, 2, 0] = 0x58 ∧ ck7 [1, 2, 3, 4, 0x7F] = 0x76 ∧ ck7 [0x7F] = 0 := by
  decide

/-- TV30 to TV33. -/
theorem test_comb : comb .precedence 0x12 0x34 = 0x4600 ∧ comb .precedence 0x56 0x78 = 0xCE00 ∧
    comb .precedence 0x7F 0x7F = 0xFE00 ∧ comb .littleEndian 0x12 0x34 = 0x3412 ∧
    comb .littleEndian 0x7F 0x7F = 0x7F7F := by decide

/-- TV39, TV40, TV43: the FRAME macro and its inverse. -/
theorem test_frames : (frameOf ⟨0xFF, 0xFF, 0xFF, 0xFF⟩).bytes = [0x7F, 0x7F, 0x7F, 0x7F, 0x0F, 0x74] ∧
    (frameOf ⟨0x80, 0x00, 0x01, 0xFE⟩).bytes = [0, 0, 1, 0x7E, 9, 0x77] ∧
    recon ⟨1, 2, 3, 4, 0x7F, 0x76⟩ = ⟨0x81, 0x82, 0x83, 0x84⟩ := by decide

/-! ## One step per instruction, from the examples of the rules and the vectors of spec/95 -/

/-- R69's example. -/
theorem test_sync : view (step (at' .decodeFrames [1, 2] (some (header 1 0x6D)) [.byte 0xAA])) =
    some (.detectHeaderType, [], none, []) := by decide
/-- R70's example. -/
theorem test_illegal_in_init : view (step (at' .waitSync [] none [.byte 0x80])) =
    some (.waitSync, [], none, [.error ⟨1, 0x80, 0, 0⟩]) := by decide
/-- TV8. -/
theorem test_illegal_in_header1 : view (step (at' .decodeHeader1 [0, 0, 0, 0, 0x10, 0] none [.byte 0xC0])) =
    some (.waitSync, [], none, [.error ⟨1, 0xC0, 0, 0⟩]) := by decide
/-- TV6. -/
theorem test_dataWaitSync : view (step (at' .waitSync [] none [.byte 0x7F])) =
    some (.waitSync, [], none, []) := by decide
/-- R76's example. -/
theorem test_dataDetect : view (step (at' .detectHeaderType [0x10, 0] none [.byte 0x15])) =
    some (.detectHeaderType, [0x10, 0, 0x15], none, []) := by decide
/-- TV19. -/
theorem test_verV1 : view (step (at' .detectHeaderType [0x10, 0x20, 0x30, 0x7F] none [.byte 0x10])) =
    some (.decodeHeader1, [0x10, 0x20, 0x30, 0x7F, 0x10], none, []) := by decide
/-- TV13. -/
theorem test_verV2 : view (step (at' .detectHeaderType [1, 2, 3, 4] none [.byte 0x20])) =
    some (.decodeHeader2, [1, 2, 3, 4, 0x20], none, []) := by decide
/-- TV14. -/
theorem test_verUnsup : view (step (at' .detectHeaderType [0, 0, 0, 0] none [.byte 0x30])) =
    some (.waitSync, [], none, [.error ⟨2, 0x30, 0, 0⟩]) := by decide
/-- TV18. -/
theorem test_verOther : view (step (at' .detectHeaderType [0, 0, 0, 0] none [.byte 0x21])) =
    some (.waitSync, [], none, [.error ⟨3, 0x21, 0, 0⟩]) := by decide
/-- R83's example. -/
theorem test_dataHdr1 : view (step (at' .decodeHeader1 [0, 0, 0, 0, 0x10] none [.byte 0])) =
    some (.decodeHeader1, [0, 0, 0, 0, 0x10, 0], none, []) := by decide
/-- R87's example. -/
theorem test_hdr1Check_held :
    view (step (at' .decodeHeader1 [0, 0, 0, 0, 0x10, 0, 1, 1] none [.byte 0x6D])) =
      some (.decodeFrames, [], some (header 1 0x6D), []) := by decide
/-- R91's example. -/
theorem test_dataHdr2 : view (step (at' .decodeHeader2 [1, 2, 3, 4, 0x20] none [.byte 5])) =
    some (.decodeHeader2, [1, 2, 3, 4, 0x20, 5], none, []) := by decide
/-- TV36. -/
theorem test_hdr2Done :
    view (step (at' .decodeHeader2 [1, 2, 3, 4, 0x20, 5, 6, 7, 8, 9, 10, 11, 12, 13] none [.byte 14])) =
      some (.waitSync, [], none,
        [.datagramFault 7 [1, 2, 3, 4, 0x20, 5, 6, 7, 8, 9, 10, 11, 12, 13, 14]]) := by decide
/-- R94's example. -/
theorem test_dataFrames : view (step (at' .decodeFrames [] (some (header 2 0x6C)) [.byte 1])) =
    some (.decodeFrames, [1], some (header 2 0x6C), []) := by decide
/-- TV46, the last byte: frame 1 of 3 is bad. -/
theorem test_framesDone_bad :
    view (step (at' .decodeFrames [1, 2, 3, 4, 0, 0x75, 5, 6, 7, 8, 0, 0, 9, 10, 11, 12, 0]
      (some (header 3 0x6B)) [.byte 0x55])) =
      some (.waitSync, [], none, [.error ⟨6, 0, 0x65, 1⟩]) := by decide
/-- TV48, the last byte: three good frames. -/
theorem test_framesDone_packet :
    view (step (at' .decodeFrames [1, 2, 3, 4, 0, 0x75, 5, 6, 7, 8, 1, 0x64, 9, 10, 11, 0x7C, 8]
      (some (header 3 0x6B)) [.byte 0x5D])) =
      some (.waitSync, [], none,
        [.packet (header 3 0x6B) [⟨1, 2, 3, 4⟩, ⟨0x85, 6, 7, 8⟩, ⟨9, 10, 11, 0xFC⟩]]) := by decide
/-- TV51. -/
theorem test_reset : view (step (at' .decodeHeader1 [0, 0, 0, 0, 0x10, 0] none [.reset])) =
    some (.waitSync, [], none, []) := by decide
/-- TV31: the header record under LITTLE_ENDIAN. -/
theorem test_headerRecord_littleEndian :
    headerRecord .littleEndian [0x12, 0x34, 0x56, 0x78, 0x10, 1, 2, 0, 0x58] =
      ⟨0x12, 0x34, 0x56, 0x78, 0x10, 1, 2, 0, 0x58, 0x3412, 0x7856, 0x0201⟩ := by decide

/-! ## Witnesses: each statement's hypotheses, met by a concrete state and operands

Where a statement has a clause per range, the ends of each range are met. -/

/-- Both ends of the illegal range, and the neighbours of the sync byte. -/
theorem witness_IllegalByteRaisesFramingError :
    ∀ b ∈ ([0x80, 0xA9, 0xAB, 0xFF] : List Byte), 0x80 ≤ b.toNat ∧ b ≠ 0xAA := by decide

theorem witness_DataByteInWaitSyncIsDiscarded : State.reset.st = .waitSync := by decide

/-- Each clause of the action map, at both ends of its range. -/
theorem witness_ActionMapSelectsTheRow :
    (at' .detectHeaderType [] none []).buf.length + 1 < 5 ∧
    (at' .detectHeaderType [0, 0, 0] none []).buf.length + 1 < 5 ∧
    (at' .detectHeaderType [0, 0, 0, 0] none []).buf.length + 1 = 5 ∧
    (at' .decodeHeader1 [0, 0, 0, 0, 0x10] none []).buf.length + 1 < 9 ∧
    (at' .decodeHeader1 [0, 0, 0, 0, 0x10, 0, 0] none []).buf.length + 1 < 9 ∧
    (at' .decodeHeader1 [0, 0, 0, 0, 0x10, 0, 0, 0] none []).buf.length + 1 = 9 ∧
    (at' .decodeHeader2 [0, 0, 0, 0, 0x20] none []).buf.length + 1 < 15 ∧
    (at' .decodeHeader2 (List.replicate 13 0x20) none []).buf.length + 1 < 15 ∧
    (at' .decodeHeader2 (List.replicate 14 0x20) none []).buf.length + 1 = 15 ∧
    (at' .decodeFrames [] (some (header 1 0)) []).buf.length + 1 < 6 * (header 1 0).frameCount.toNat ∧
    (at' .decodeFrames (List.replicate 4 0) (some (header 1 0)) []).buf.length + 1
      < 6 * (header 1 0).frameCount.toNat ∧
    (at' .decodeFrames (List.replicate 5 0) (some (header 1 0)) []).buf.length + 1
      = 6 * (header 1 0).frameCount.toNat := by decide

/-- The same at the largest group. -/
theorem witness_ActionMapAtTheLargestGroup :
    (at' .decodeFrames (List.replicate 761 0) (some (header 127 0)) []).buf.length + 1
      = 6 * (header 127 0).frameCount.toNat := by
  simp only [at', List.length_replicate]
  decide

theorem witness_DetectCollectsHeaderBytes :
    ∀ s ∈ [at' .detectHeaderType [] none [], at' .detectHeaderType [1, 2, 3] none []],
      s.st = .detectHeaderType ∧ s.buf.length ≤ 3 := by decide

/-- Meets AcceptedVersionsSelectTheHeader and OtherVersionsRaiseTheirError, the operand at the ends of its
range. -/
theorem witness_VersionStatements :
    (at' .detectHeaderType [1, 2, 3, 4] none []).st = .detectHeaderType ∧
    (at' .detectHeaderType [1, 2, 3, 4] none []).buf.length = 4 ∧
    ∀ v ∈ ([0, 0x11, 0x7F] : List Septet), v ≠ 0x10 ∧ v ≠ 0x20 ∧ v ≠ 0x30 := by decide

/-- Two buffers that differ, the version byte waiting. -/
theorem witness_DetectionIgnoresEarlierHeaderBytes :
    (at' .detectHeaderType [0, 0, 0, 0] none [.byte 0x10]).st = .detectHeaderType ∧
    ([1, 2, 3, 4] : List Septet).length =
      (at' .detectHeaderType [0, 0, 0, 0] none [.byte 0x10]).buf.length ∧
    goesOn (step (at' .detectHeaderType [0, 0, 0, 0] none [.byte 0x10])) = true := by decide

theorem witness_Header1CollectsHeaderBytes :
    ∀ s ∈ [at' .decodeHeader1 [0, 0, 0, 0, 0x10] none [], at' .decodeHeader1 [0, 0, 0, 0, 0x10, 0, 0] none []],
      s.st = .decodeHeader1 ∧ s.buf.length ≤ 7 := by decide

/-- TV24: the largest frame count; TV22: the smallest. -/
theorem witness_ValidHeaderIsHeldForItsFrames :
    (0x7F + 0x7F + 0x7F + 0x7F + 0x10 + 0x7F + 0x7F + 0x7F + 0x76) % 128 = 127 ∧ (0x7F : Septet) ≠ 0 ∧
    (0 + 0 + 0 + 0 + 0x10 + 0 + 1 + 1 + 0x6D) % 128 = 127 ∧ (1 : Septet) ≠ 0 ∧
    (at' .decodeHeader1 [0, 0, 0, 0, 0x10, 0, 1, 1] none []).st = .decodeHeader1 ∧
    (at' .decodeHeader1 [0, 0, 0, 0, 0x10, 0, 1, 1] none []).buf = [0, 0, 0, 0, 0x10, 0, 1, 1] := by decide

/-- TV23. -/
theorem witness_ValidHeaderWithoutFramesIsAPacket :
    (at' .decodeHeader1 [0, 0, 0, 0, 0x10, 0, 1, 0] none []).st = .decodeHeader1 ∧
    (at' .decodeHeader1 [0, 0, 0, 0, 0x10, 0, 1, 0] none []).buf = [0, 0, 0, 0, 0x10, 0, 1, 0] ∧
    (0 + 0 + 0 + 0 + 0x10 + 0 + 1 + 0x6E) % 128 = 127 := by decide

/-- TV25. -/
theorem witness_HeaderChecksumMismatchIsReported :
    (at' .decodeHeader1 [0, 0, 0, 0, 0x10, 0, 1, 1] none []).st = .decodeHeader1 ∧
    (at' .decodeHeader1 [0, 0, 0, 0, 0x10, 0, 1, 1] none []).buf = [0, 0, 0, 0, 0x10, 0, 1, 1] ∧
    (0x6C : Septet) ≠ ~~~ (0 + 0 + 0 + 0 + 0x10 + 0 + 1 + 1) := by decide

theorem witness_Header2CollectsHeaderBytes :
    ∀ s ∈ [at' .decodeHeader2 [0, 0, 0, 0, 0x20] none [], at' .decodeHeader2 (List.replicate 13 0x20) none []],
      s.st = .decodeHeader2 ∧ s.buf.length ≤ 13 := by decide

theorem witness_FifteenthByteIsADatagramFault :
    (at' .decodeHeader2 (List.replicate 14 0x20) none []).st = .decodeHeader2 ∧
    (at' .decodeHeader2 (List.replicate 14 0x20) none []).buf.length = 14 := by decide

theorem witness_FramesAreCollectedToTheDeclaredCount :
    ∀ s ∈ [at' .decodeFrames [] (some (header 1 0)) [], at' .decodeFrames [0, 0, 0, 0] (some (header 1 0)) []],
      s.st = .decodeFrames ∧ s.pend = some (header 1 0) ∧
        s.buf.length + 1 < 6 * (header 1 0).frameCount.toNat := by decide

/-- TV38: a group of one good frame. -/
theorem witness_GoodFrameGroupIsEmittedAsPacket :
    (at' .decodeFrames [0, 0, 0, 0, 0] (some (header 1 0)) []).st = .decodeFrames ∧
    (at' .decodeFrames [0, 0, 0, 0, 0] (some (header 1 0)) []).pend = some (header 1 0) ∧
    (at' .decodeFrames [0, 0, 0, 0, 0] (some (header 1 0)) []).buf.length + 1
      = 6 * (header 1 0).frameCount.toNat ∧
    ∀ k < (header 1 0).frameCount.toNat, GroupFrameGood ([0, 0, 0, 0, 0] ++ [0x7F]) k := by
  unfold GroupFrameGood; decide

/-- P5, chunk 1: frame 0 good, frame 1 bad. -/
theorem witness_LowestBadFrameIsReported :
    (at' .decodeFrames [1, 1, 1, 1, 0, 0x7B, 2, 2, 2, 2, 0] (some (header 2 0)) []).st = .decodeFrames ∧
    (at' .decodeFrames [1, 1, 1, 1, 0, 0x7B, 2, 2, 2, 2, 0] (some (header 2 0)) []).pend
      = some (header 2 0) ∧
    (at' .decodeFrames [1, 1, 1, 1, 0, 0x7B, 2, 2, 2, 2, 0] (some (header 2 0)) []).buf.length + 1
      = 6 * (header 2 0).frameCount.toNat ∧
    1 < (header 2 0).frameCount.toNat ∧
    (∀ j < 1, GroupFrameGood ([1, 1, 1, 1, 0, 0x7B, 2, 2, 2, 2, 0] ++ [0x76]) j) ∧
    ¬ GroupFrameGood ([1, 1, 1, 1, 0, 0x7B, 2, 2, 2, 2, 0] ++ [0x76]) 1 := by
  unfold GroupFrameGood; decide

/-- A step that emits an ERROR event: meets FrameCountMismatchIsNeverEmitted and ErrorStepEndsInInit. -/
theorem witness_StepThatEmitsAnError :
    step (at' .decodeHeader1 [0, 0] none [.byte 0xFF]) =
      .next { at' .waitSync [] none [] with
        events := (at' .decodeHeader1 [0, 0] none [.byte 0xFF]).events ++ [.error ⟨1, 0xFF, 0, 0⟩] } := rfl

/-- Two MSB-extension bytes that agree in bits 3:0 and differ above. -/
theorem witness_MsbHighBitsCountOnlyInTheChecksum :
    (∀ i < 4, (0x75 : Septet).getLsbD i = (0x05 : Septet).getLsbD i) ∧ (0x75 : Septet) ≠ 0x05 := by decide

theorem witness_TableWordIsTheNextInstruction :
    (decodeTableWord 8 0xFF = some (.illegal 0xFF)) ∧ (decodeTableWord 8 0x7F = some (.dataWaitSync 0x7F)) ∧
    (decodeTableWord 8 0x30 = some .verUnsup) ∧ (decodeTableWord 0 0 = some .reset) := by decide

theorem witness_StepRunsTheDecodedInstruction :
    (at' .decodeHeader1 [0, 0, 0, 0, 0x10] none [.byte 7, .reset]).input = .byte 7 :: [.reset] ∧
    decode (at' .decodeHeader1 [0, 0, 0, 0, 0x10] none [.byte 7, .reset]).position (.byte 7) =
      .instr (.dataHdr1 7) := by decide

theorem witness_StepWithoutInputKeepsTheState : State.reset.input = [] := by decide

/-- Both clauses: a row that applies, and one that does not. -/
theorem witness_MeaningsCompleteWhereTheirRowApplies :
    (Instr.hdr1Check 0).enabledAt (at' .decodeHeader1 (List.replicate 8 0) none []).position = true ∧
    (Instr.hdr1Check 0).enabledAt (at' .decodeHeader1 (List.replicate 7 0) none []).position = false := by
  decide

/-- A step in the middle of a packet: meets StepEmitsAtMostOneEvent, StepFollowsTheTransitionGraph and
StepKeepsParameterAndLaterInputs. -/
theorem witness_StepInsideAPacket :
    step (at' .detectHeaderType [0, 0, 0, 0] none [.byte 0x10, .byte 0]) =
      .next (at' .decodeHeader1 [0, 0, 0, 0, 0x10] none [.byte 0]) := rfl

/-- The inputs that the clauses tell apart: reset, sync, and an illegal byte and a DATA byte (an unsupported version)
that end a header. -/
theorem witness_PacketEndsSilentlyOnlyOnSyncOrReset :
    step (at' .decodeHeader1 [0, 0] none [.reset]) = .next (at' .waitSync [] none []) ∧
    step (at' .decodeHeader1 [0, 0] none [.byte 0xAA]) = .next (at' .detectHeaderType [] none []) ∧
    view (step (at' .decodeHeader1 [0, 0] none [.byte 0xFF])) =
      some (.waitSync, [], none, [.error ⟨1, 0xFF, 0, 0⟩]) ∧
    view (step (at' .detectHeaderType [0, 0, 0, 0] none [.byte 0x30])) =
      some (.waitSync, [], none, [.error ⟨2, 0x30, 0, 0⟩]) := ⟨rfl, rfl, by decide, by decide⟩

/-- The invariant in each of the five FSM states, at the upper end of the buffer's range where it has one:
meets EveryInputHasAnInstruction, ByteWithoutEffect, StepKeepsTheInvariant, NoInputStopsTheBlock,
HeaderIsPendingOnlyInDecodeFrames and BufferNeverOutgrowsTheLeastCapacity. -/
theorem witness_Invariant :
    (at' .waitSync [] none [.byte 0xAA]).Inv ∧ (at' .detectHeaderType [0, 0, 0, 0] none [.byte 0x10]).Inv ∧
    (at' .decodeHeader1 [0, 0, 0, 0, 0x10, 0, 1, 1] none [.byte 0x6D]).Inv ∧
    (at' .decodeHeader2 ([0, 0, 0, 0, 0x20] ++ List.replicate 9 0) none [.byte 0]).Inv ∧
    (at' .decodeFrames [0, 0, 0, 0, 0] (some (header 1 0x6D)) [.byte 0x7F]).Inv := by
  simp [State.Inv, at', header]

/-- The last of these states goes on. -/
theorem witness_StepKeepsTheInvariant :
    goesOn (step (at' .decodeFrames [0, 0, 0, 0, 0] (some (header 1 0x6D)) [.byte 0x7F])) = true := by decide

/-- The pending header of TV22 is a valid one. -/
theorem witness_header_valid : (header 1 0x6D).Valid .precedence :=
  ⟨by decide, by decide, by decide, by decide, by decide, by decide⟩

/-- A sound state with a pending header and an event, in which a byte waits. -/
theorem witness_StepKeepsSoundness :
    ({ at' .decodeFrames [0, 0, 0, 0, 0] (some (header 1 0x6D)) [.byte 0x7F] with
      events := [.error ⟨2, 0x30, 0, 0⟩] } : State).Sound where
  inv := by simp [State.Inv, at', header]
  pend := by
    intro h hp
    cases hp
    exact witness_header_valid
  events := by
    intro e he
    cases List.mem_singleton.mp he
    exact .inr (.inl ⟨rfl, rfl, rfl, rfl⟩)

/-- Two instances with different parameters, a header about to be held. -/
theorem witness_TransitionsAreIndependentOfTheParameter :
    (at' .decodeHeader1 [1, 0, 0, 0, 0x10, 0, 1, 1] none [.byte 0x6C]).AgreeButCombined
      { at' .decodeHeader1 [1, 0, 0, 0, 0x10, 0, 1, 1] none [.byte 0x6C] with addrCombine := .littleEndian } ∧
    goesOn (step (at' .decodeHeader1 [1, 0, 0, 0, 0x10, 0, 1, 1] none [.byte 0x6C])) = true :=
  ⟨⟨rfl, rfl, rfl, rfl, rfl⟩, by decide⟩

/-- Meets FeedIsIndependentOfChunks and RunningTheStepsIsFeeding. -/
theorem witness_Feed :
    feed [.byte 0xAA, .byte 0] { State.reset with input := [.reset] } =
      .next (at' .detectHeaderType [0] none [.reset]) := rfl

theorem witness_PacketOnTheWireIsDecoded :
    ([⟨0x9C, 1, 0xFF, 0⟩, ⟨0, 0x80, 0x7F, 0x2A⟩] : List DataFrame).length =
      (⟨0x10, 0, 0x15, 0x7E, 0, 1, 2⟩ : HeaderFields).n.toNat := by decide

/-- P2's second packet: what the macros put on the wire. -/
theorem test_packet_on_the_wire :
    packetInputs ⟨0x10, 0, 0x15, 0x7E, 0, 1, 2⟩ [⟨0x9C, 1, 0xFF, 0⟩, ⟨0, 0x80, 0x7F, 0x2A⟩] =
      chunk [0xAA, 0x10, 0x00, 0x15, 0x7E, 0x10, 0x00, 0x01, 0x02, 0x49, 0x1C, 0x01, 0x7F, 0x00, 0x05, 0x5E,
        0x00, 0x00, 0x7F, 0x2A, 0x02, 0x54] := by decide

/-- A change of bit 0 and a change of bit 6 of the checksum byte. -/
theorem witness_CorruptedHeaderChecksumIsOneError : (0x01 : Septet) ≠ 0 ∧ (0x40 : Septet) ≠ 0 := by decide

/-- The last of two frames, and the first, with a change of bit 6. -/
theorem witness_CorruptedFrameChecksumIsOneError :
    ([⟨1, 1, 1, 1⟩, ⟨2, 2, 2, 2⟩] : List DataFrame).length = (⟨0, 0, 0, 0, 0, 1, 2⟩ : HeaderFields).n.toNat ∧
    ([⟨1, 1, 1, 1⟩, ⟨2, 2, 2, 2⟩] : List DataFrame)[0]? = some ⟨1, 1, 1, 1⟩ ∧
    ([⟨1, 1, 1, 1⟩, ⟨2, 2, 2, 2⟩] : List DataFrame)[1]? = some ⟨2, 2, 2, 2⟩ ∧ (0x40 : Septet) ≠ 0 := by decide

theorem witness_DatagramHeaderOnTheWireIsOneFault :
    ([1, 2, 3, 4] : List Septet).length = 4 ∧ (List.replicate 10 (5 : Septet)).length = 10 := by decide

theorem witness_EveryIllegalByteIsOneFramingError :
    ([0x80, 0xA9, 0xAB, 0xFF] : List Byte) ≠ [] ∧
    ∀ b ∈ ([0x80, 0xA9, 0xAB, 0xFF] : List Byte), byteClass b = .illegal := by decide

theorem witness_DataOutsidePacketsIsSkipped : (at' .waitSync [1, 2] none []).st = .waitSync := by decide

end Sys2Proof.Tests
end

section
/-! The checksum function as arithmetic on the sum (R13), and the bound of the buffer (R8, R25). -/

namespace Sys2Proof.Machine

/-! ## The checksum function -/

/-- R13's arithmetic form: inverting 7 bits subtracts from 127. -/
theorem ck7_toNat (s : List Septet) : (ck7 s).toNat = 127 - septetSum s % 128 := by
  simp [ck7]

/-- R13's bitwise form: inverting is `xor` with seven ones, and the width keeps the low 7 bits. -/
theorem ck7_toNat_eq_xor (s : List Septet) : (ck7 s).toNat = 0x7F ^^^ (septetSum s &&& 0x7F) := by
  have low : septetSum s &&& 0x7F = septetSum s % 2 ^ 7 := Nat.and_two_pow_sub_one_eq_mod _ 7
  rw [ck7, ← BitVec.allOnes_xor, BitVec.toNat_xor, BitVec.toNat_allOnes, BitVec.toNat_ofNat, low]

/-- R13's validity test: a checksum byte completes the sum to 127 modulo 128. -/
theorem eq_ck7_iff {s : List Septet} {c : Septet} : c = ck7 s ↔ (septetSum s + c.toNat) % 128 = 127 := by
  rw [← BitVec.toNat_inj, ck7_toNat]
  have := c.isLt
  omega

/-- Settles O23: the two forms and the validity test of R13, `septetSum` being the sum of the values. -/
theorem checksumIsInvertedSum : Obligations.ChecksumIsInvertedSum :=
  fun s => ⟨ck7_toNat_eq_xor s, ck7_toNat s, fun _ => eq_ck7_iff⟩

/-! ## The bound of the buffer -/

/-- The largest frame group a header can declare, 127 frames of 6 bytes, sets the bound; the buffers of the
other states are shorter than a protocol-2.0 header. -/
theorem State.Inv.buf_length_lt {s : State} (h : s.Inv) : s.buf.length < 762 := by
  obtain ⟨hwait, hdetect, hhdr1, hhdr2, hframes⟩ := h
  cases hs : s.st with
  | waitSync =>
    obtain ⟨hlen, -⟩ := hwait hs
    omega
  | detectHeaderType =>
    obtain ⟨hlen, -⟩ := hdetect hs
    omega
  | decodeHeader1 =>
    obtain ⟨-, hlen, -⟩ := hhdr1 hs
    omega
  | decodeHeader2 =>
    obtain ⟨-, hlen, -⟩ := hhdr2 hs
    omega
  | decodeFrames =>
    obtain ⟨header, -, -, hcount, hlen⟩ := hframes hs
    omega

/-- Settles O45, from the bound that R27 sets in each FSM state. -/
theorem bufferNeverOutgrowsTheLeastCapacity : Obligations.BufferNeverOutgrowsTheLeastCapacity :=
  fun _ h => h.buf_length_lt

/-- A state one byte before the end of a group of 127 frames, the fullest that R27 allows. -/
def fullestState : State :=
  { State.reset with
    st := .decodeFrames
    buf := List.replicate 761 0
    pend := some (headerRecord .precedence [0, 0, 0, 0, verCodeV1, 0, 0, 127, 0x70]) }

/-- The bound of R8 is met with equality, so no smaller capacity would do. -/
theorem fullestState_inv : fullestState.Inv ∧ fullestState.buf.length + 1 = Config.minBufCapacity := by
  simp [State.Inv, fullestState, headerRecord, entry, Config.minBufCapacity, -List.reduceReplicate]

end Sys2Proof.Machine
end

section
/-! The decoder from a state that meets R27: it rejects no input, and what it answers is a row of the table. -/

namespace Sys2Proof

/-! ## The operand values of the two rows that exclude some -/

theorem illegal_wellFormed {b : Byte} : (Instr.illegal b).WellFormed ↔ 0x80 ≤ b.toNat ∧ b ≠ 0xAA := by
  have bit7 : b[7] = decide (128 ≤ b.toNat) := BitVec.msb_eq_decide b
  simp [Instr.WellFormed, Instr.wellFormed, bit7]

theorem verOther_wellFormed {v : Septet} :
    (Instr.verOther v).WellFormed ↔ v ≠ 0x10 ∧ v ≠ 0x20 ∧ v ≠ 0x30 := by
  simp [Instr.WellFormed, Instr.wellFormed, and_assoc]

/-- The dispatch names VER.OTHER only after the three named version codes are ruled out. -/
theorem decodeVersion_wellFormed (v : Septet) : (decodeVersion v).WellFormed := by
  unfold decodeVersion
  split
  · rfl
  · split
    · rfl
    · split
      · rfl
      · exact verOther_wellFormed.mpr ⟨‹_›, ‹_›, ‹_›⟩

/-! ## What the decoder answers -/

theorem wellFormed_of_whenReached {n need : Nat} {collect act i : Instr} {r : Rejection}
    (hcollect : collect.WellFormed) (hact : act.WellFormed)
    (h : whenReached n need collect act r = .instr i) : i.WellFormed := by
  rcases whenReached_eq_instr.mp h with ⟨-, rfl⟩ | ⟨-, rfl⟩
  · exact hcollect
  · exact hact

theorem decodeData_wellFormed {p : Position} {b : Septet} {i : Instr} (h : decodeData p b = .instr i) :
    i.WellFormed := by
  unfold decodeData at h
  split at h
  case h_1 => cases h; rfl
  case h_2 => exact wellFormed_of_whenReached rfl (decodeVersion_wellFormed b) h
  case h_3 => exact wellFormed_of_whenReached rfl rfl h
  case h_4 => exact wellFormed_of_whenReached rfl rfl h
  case h_5 =>
    split at h
    · exact wellFormed_of_whenReached rfl rfl h
    · cases h

/-- A decoded instruction has an operand that its row admits (R49, R54). -/
theorem decode_wellFormed {p : Position} {inp : Input} {i : Instr} (h : decode p inp = .instr i) :
    i.WellFormed := by
  cases inp with
  | reset => cases h; rfl
  | byte b =>
    cases hc : byteClass b with
    | sync => simp only [decode, hc] at h; cases h; rfl
    | illegal => simp only [decode, hc] at h; cases h; exact byteClass_eq_illegal.mp hc
    | data => simp only [decode, hc] at h; exact decodeData_wellFormed h

/-- The choice between two rows rejects only past the acting row. -/
theorem whenReached_of_le {n need : Nat} {collect act : Instr} {r : Rejection} (h : n ≤ need) :
    ∃ i, whenReached n need collect act r = .instr i := by
  rcases Nat.lt_or_eq_of_le h with hlt | heq
  · exact ⟨collect, whenReached_eq_instr.mpr (.inl ⟨hlt, rfl⟩)⟩
  · exact ⟨act, whenReached_eq_instr.mpr (.inr ⟨heq, rfl⟩)⟩

/-- Only DATA bytes depend on the position: the other inputs have an instruction at each. -/
theorem exists_decode_of_decodeData {p : Position} (h : ∀ b, ∃ i, decodeData p b = .instr i) (inp : Input) :
    ∃ i, decode p inp = .instr i := by
  cases inp with
  | reset => exact ⟨.reset, rfl⟩
  | byte b =>
    cases hc : byteClass b with
    | sync => exact ⟨.sync, by simp [decode, hc]⟩
    | illegal => exact ⟨.illegal b, by simp [decode, hc]⟩
    | data => simpa [decode, hc] using h (payload b)

end Sys2Proof

namespace Sys2Proof.Machine

variable {s : State}

/-! ## The rows of R27, one per FSM state -/

theorem inv_iff_of_waitSync (h : s.st = .waitSync) : s.Inv ↔ s.buf = [] ∧ s.pend = none := by
  simp [State.Inv, h]

theorem inv_iff_of_detectHeaderType (h : s.st = .detectHeaderType) :
    s.Inv ↔ s.buf.length ≤ 4 ∧ s.pend = none := by
  simp [State.Inv, h]

theorem inv_iff_of_decodeHeader1 (h : s.st = .decodeHeader1) :
    s.Inv ↔ 5 ≤ s.buf.length ∧ s.buf.length ≤ 8 ∧ s.buf[4]? = some 0x10 ∧ s.pend = none := by
  simp [State.Inv, h]

theorem inv_iff_of_decodeHeader2 (h : s.st = .decodeHeader2) :
    s.Inv ↔ 5 ≤ s.buf.length ∧ s.buf.length ≤ 14 ∧ s.buf[4]? = some 0x20 ∧ s.pend = none := by
  simp [State.Inv, h]

theorem inv_iff_of_decodeFrames (h : s.st = .decodeFrames) :
    s.Inv ↔ ∃ d, s.pend = some d ∧ 1 ≤ d.frameCount.toNat ∧ d.frameCount.toNat ≤ 127 ∧
      s.buf.length ≤ 6 * d.frameCount.toNat - 1 := by
  simp [State.Inv, h]

/-- The state `INIT` (R31) meets R27, whatever was emitted and whatever waits. -/
theorem inv_of_init (hst : s.st = .waitSync) (hbuf : s.buf = []) (hpend : s.pend = none) : s.Inv :=
  (inv_iff_of_waitSync hst).mpr ⟨hbuf, hpend⟩

/-! ## No position is rejected -/

/-- R27 keeps the buffer short of the acting row's length in every FSM state. -/
theorem exists_decodeData_of_inv (hinv : s.Inv) (b : Septet) : ∃ i, decodeData s.position b = .instr i := by
  unfold decodeData
  cases hst : s.st with
  | waitSync => exact ⟨.dataWaitSync b, by simp [hst]⟩
  | detectHeaderType =>
    obtain ⟨hlen, -⟩ := (inv_iff_of_detectHeaderType hst).mp hinv
    simp only [State.position_st, hst]
    exact whenReached_of_le (Nat.succ_le_succ hlen)
  | decodeHeader1 =>
    obtain ⟨-, hlen, -⟩ := (inv_iff_of_decodeHeader1 hst).mp hinv
    simp only [State.position_st, hst]
    exact whenReached_of_le (Nat.succ_le_succ hlen)
  | decodeHeader2 =>
    obtain ⟨-, hlen, -⟩ := (inv_iff_of_decodeHeader2 hst).mp hinv
    simp only [State.position_st, hst]
    exact whenReached_of_le (Nat.succ_le_succ hlen)
  | decodeFrames =>
    obtain ⟨d, hpend, hpos, -, hlen⟩ := (inv_iff_of_decodeFrames hst).mp hinv
    simp only [State.position_st, hst, State.position_declared, hpend, Option.map_some]
    have hle : s.buf.length + 1 ≤ 6 * d.frameCount.toNat := by omega
    exact whenReached_of_le hle

/-- Settles O29: only a DATA byte can be rejected, and R27 excludes the positions where it is. -/
theorem everyInputHasAnInstruction : Obligations.EveryInputHasAnInstruction :=
  fun _ inp hinv => exists_decode_of_decodeData (exists_decodeData_of_inv hinv) inp

end Sys2Proof.Machine
end

section
/-! What every step keeps: the parameter, the later inputs, the transition graph, and the invariants R27 and
`State.Sound`. Each is proved of `Effect`, by cases on what an instruction does. -/

namespace Sys2Proof.Machine

variable {s t : State} {i : Instr}

/-! ## The parameter, the waiting inputs and the transitions -/

theorem Effect.addrCombine_eq (h : Effect s i t) : t.addrCombine = s.addrCombine := by
  cases h <;> rfl

theorem Effect.input_eq (h : Effect s i t) : t.input = s.input := by
  cases h <;> rfl

/-- Settles O40: the effect is that of the state with its first input consumed. -/
theorem stepKeepsParameterAndLaterInputs : Obligations.StepKeepsParameterAndLaterInputs := by
  intro s t hstep
  rcases effect_of_step hstep with ⟨hnil, rfl⟩ | ⟨inp, rest, i, hcons, -, heffect⟩
  · simp [hnil]
  · exact ⟨heffect.addrCombine_eq, by rw [heffect.input_eq, hcons]; rfl⟩

/-- The edges of the transition graph (R21), by the kind of row: collecting bytes keeps `st`, the sync byte
restarts detection, an accepted version or header moves on, and every other row ends in `INIT`. -/
theorem Effect.transition (h : Effect s i t) :
    t.st = s.st ∨ t.st = .waitSync ∨ t.st = .detectHeaderType ∨
    (s.st = .detectHeaderType ∧ (t.st = .decodeHeader1 ∨ t.st = .decodeHeader2)) ∨
    (s.st = .decodeHeader1 ∧ t.st = .decodeFrames) := by
  cases h with
  | discard | collectDetect | collectHeader1 | collectHeader2 | collectFrames => exact .inl rfl
  | sync => exact .inr (.inr (.inl rfl))
  | version1 hst => exact .inr (.inr (.inr (.inl ⟨hst, .inl rfl⟩)))
  | version2 hst => exact .inr (.inr (.inr (.inl ⟨hst, .inr rfl⟩)))
  | headerHeld c hst => exact .inr (.inr (.inr (.inr ⟨hst, rfl⟩)))
  | illegal | reset | unsupported | unrecognized | headerMismatch | headerPacket | datagram | frameMismatch
  | packet => exact .inr (.inl rfl)

/-- Settles O39. -/
theorem stepFollowsTheTransitionGraph : Obligations.StepFollowsTheTransitionGraph := by
  intro s t hstep
  rcases effect_of_step hstep with ⟨-, rfl⟩ | ⟨inp, rest, i, -, -, heffect⟩
  · exact .inl rfl
  · exact heffect.transition

/-! ## The invariant R27 -/

/-- The frame count of a header record is a wire byte, so it has 7 bits (R25). -/
theorem headerRecord_frameCount_le (c : AddrCombine) (hb : List Septet) :
    (headerRecord c hb).frameCount.toNat ≤ 127 := by
  have hlt := (entry hb 7).isLt
  have hcount : (headerRecord c hb).frameCount.toNat = (entry hb 7).toNat := dataByte_toNat _
  omega

/-- Collecting a byte leaves the version byte at its index. -/
theorem version_append {buf : List Septet} {v : Septet} (b : Septet) (h : buf[4]? = some v) :
    (buf ++ [b])[4]? = some v := by
  obtain ⟨hlt, -⟩ := List.getElem?_eq_some_iff.mp h
  rwa [List.getElem?_append_left hlt]

/-- The version byte, appended to four header bytes, stands at its index. -/
theorem version_appended {buf : List Septet} (v : Septet) (h : buf.length = 4) :
    (buf ++ [v])[4]? = some v := by
  simp [← h]

theorem Effect.keeps_inv (h : Effect s i t) (hinv : s.Inv) : t.Inv := by
  cases h with
  | discard => exact hinv
  | sync => exact (inv_iff_of_detectHeaderType rfl).mpr ⟨Nat.zero_le 4, rfl⟩
  | collectDetect b hst hlen =>
    obtain ⟨-, hpend⟩ := (inv_iff_of_detectHeaderType hst).mp hinv
    exact (inv_iff_of_detectHeaderType (s := s.append b) hst).mpr ⟨by simp; omega, hpend⟩
  | collectHeader1 b hst hlen =>
    obtain ⟨hlow, -, hver, hpend⟩ := (inv_iff_of_decodeHeader1 hst).mp hinv
    exact (inv_iff_of_decodeHeader1 (s := s.append b) hst).mpr
      ⟨by simp; omega, by simp; omega, version_append b hver, hpend⟩
  | collectHeader2 b hst hlen =>
    obtain ⟨hlow, -, hver, hpend⟩ := (inv_iff_of_decodeHeader2 hst).mp hinv
    exact (inv_iff_of_decodeHeader2 (s := s.append b) hst).mpr
      ⟨by simp; omega, by simp; omega, version_append b hver, hpend⟩
  | collectFrames b d hst hpend hlen =>
    obtain ⟨d', hpend', hpos, hcount, -⟩ := (inv_iff_of_decodeFrames hst).mp hinv
    obtain rfl : d = d' := Option.some.inj (hpend.symm.trans hpend')
    exact (inv_iff_of_decodeFrames (s := s.append b) hst).mpr ⟨d, hpend, hpos, hcount, by simp; omega⟩
  | version1 hst hlen =>
    obtain ⟨-, hpend⟩ := (inv_iff_of_detectHeaderType hst).mp hinv
    exact (inv_iff_of_decodeHeader1 rfl).mpr
      ⟨by simp [hlen], by simp [hlen], version_appended _ hlen, hpend⟩
  | version2 hst hlen =>
    obtain ⟨-, hpend⟩ := (inv_iff_of_detectHeaderType hst).mp hinv
    exact (inv_iff_of_decodeHeader2 rfl).mpr
      ⟨by simp [hlen], by simp [hlen], version_appended _ hlen, hpend⟩
  | headerHeld c hst hlen hck hcount =>
    have hpos : 1 ≤ (headerRecord s.addrCombine (s.buf ++ [c])).frameCount.toNat :=
      Nat.pos_of_ne_zero fun h0 => hcount (BitVec.eq_of_toNat_eq h0)
    exact (inv_iff_of_decodeFrames rfl).mpr
      ⟨_, rfl, hpos, headerRecord_frameCount_le _ _, Nat.zero_le _⟩
  | illegal | reset | unsupported | unrecognized | headerMismatch | headerPacket | datagram | frameMismatch
  | packet => exact inv_of_init rfl rfl rfl

/-- Settles O42: R27 reads nothing of the waiting inputs, so the consumed one does not matter. -/
theorem stepKeepsTheInvariant : Obligations.StepKeepsTheInvariant := by
  intro s t hinv hstep
  rcases effect_of_step hstep with ⟨-, rfl⟩ | ⟨inp, rest, i, -, -, heffect⟩
  · exact hinv
  · exact heffect.keeps_inv hinv

/-- Settles O41. -/
theorem resetStateSatisfiesTheInvariant : Obligations.ResetStateSatisfiesTheInvariant :=
  inv_of_init rfl rfl rfl

/-- Settles O44, row by row of R27. -/
theorem headerIsPendingOnlyInDecodeFrames : Obligations.HeaderIsPendingOnlyInDecodeFrames := by
  intro s hinv
  cases hst : s.st with
  | waitSync =>
    obtain ⟨-, hpend⟩ := (inv_iff_of_waitSync hst).mp hinv
    simp [hpend]
  | detectHeaderType =>
    obtain ⟨-, hpend⟩ := (inv_iff_of_detectHeaderType hst).mp hinv
    simp [hpend]
  | decodeHeader1 =>
    obtain ⟨-, -, -, hpend⟩ := (inv_iff_of_decodeHeader1 hst).mp hinv
    simp [hpend]
  | decodeHeader2 =>
    obtain ⟨-, -, -, hpend⟩ := (inv_iff_of_decodeHeader2 hst).mp hinv
    simp [hpend]
  | decodeFrames =>
    obtain ⟨d, hpend, -⟩ := (inv_iff_of_decodeFrames hst).mp hinv
    simp [hpend]

/-! ## Valid headers and valid reports -/

/-- Eight bytes with the version of protocol 1.0 at index 4, followed by their checksum, make a
valid header record (R24, R86, R90). -/
theorem headerRecord_valid (c : AddrCombine) {hb : List Septet} (hlen : hb.length = 8)
    (hver : hb[4]? = some 0x10) : (headerRecord c (hb ++ [ck7 hb])).Valid c := by
  match hb, hlen with
  | [b0, b1, b2, b3, b4, b5, b6, b7], _ =>
    obtain rfl : b4 = 0x10 := Option.some.inj hver
    exact {
      version := rfl
      frameCount := headerRecord_frameCount_le c _
      checksum := congrArg (fun n => ck7 [b0, b1, b2, b3, 0x10, b5, b6, n]) (payload_dataByte b7).symm
      dst := rfl
      src := rfl
      cmd := rfl }

/-- A DATA byte is below 0x80 (R48). -/
theorem dataByte_toNat_le (b : Septet) : (dataByte b).toNat ≤ 0x7F := by
  rw [dataByte_toNat]
  exact Nat.le_of_lt_succ b.isLt

/-- FramingError (R108): the row with code 1. -/
theorem framingReport_valid {b : Byte} (h : (Instr.illegal b).WellFormed) :
    (⟨ErrorKind.framingError.code, b, 0, 0⟩ : ErrorReport).Valid := by
  obtain ⟨hhigh, hsync⟩ := illegal_wellFormed.mp h
  exact .inl ⟨rfl, hhigh, hsync, rfl, rfl⟩

/-- UnrecognizedProtocolVersion (R110): the row with code 3. -/
theorem unrecognizedReport_valid {v : Septet} (h : (Instr.verOther v).WellFormed) :
    (⟨ErrorKind.unrecognizedProtocolVersion.code, dataByte v, 0, 0⟩ : ErrorReport).Valid := by
  obtain ⟨h1, h2, h3⟩ := verOther_wellFormed.mp h
  have hne {w : Septet} (hw : v ≠ w) : dataByte v ≠ dataByte w := fun he =>
    hw (by simpa using congrArg payload he)
  exact .inr (.inr (.inl ⟨rfl, dataByte_toNat_le v, hne h1, hne h2, hne h3, rfl, rfl⟩))

/-- A checksum byte that differs from the expected one still does so when reported as a byte. -/
theorem dataByte_toNat_ne {c x : Septet} (h : c ≠ x) : (dataByte c).toNat ≠ x.toNat := by
  rw [dataByte_toNat]
  exact fun he => h (BitVec.eq_of_toNat_eq he)

/-- HeaderChecksumMismatch (R111): the row with code 4. -/
theorem headerReport_valid {c x : Septet} (h : c ≠ x) :
    (⟨ErrorKind.headerChecksumMismatch.code, dataByte c, x, 0⟩ : ErrorReport).Valid :=
  .inr (.inr (.inr (.inl ⟨rfl, dataByte_toNat_le c, dataByte_toNat_ne h, rfl⟩)))

/-- FrameChecksumMismatch (R113): the row with code 6. No index is lost to its 7 bits. -/
theorem frameReport_valid {f : WireFrame} {k : Nat} (h : frameGood f = false) (hk : k ≤ 126) :
    (⟨ErrorKind.frameChecksumMismatch.code, dataByte f.checksum, frameCk f, BitVec.ofNat 7 k⟩ :
      ErrorReport).Valid := by
  have hck : f.checksum ≠ frameCk f := by simpa [frameGood] using h
  exact .inr (.inr (.inr (.inr
    ⟨rfl, dataByte_toNat_le f.checksum, dataByte_toNat_ne hck, by simp; omega⟩)))

/-! ## The stronger invariant -/

/-- Soundness reads nothing of the waiting inputs. -/
theorem State.Sound.withInput (h : s.Sound) (l : List Input) : ({ s with input := l } : State).Sound :=
  ⟨h.inv, h.pend, h.events⟩

/-- A header becomes pending only with its checksum verified, and then stays as it is (R90). -/
theorem Effect.keeps_pend_valid (h : Effect s i t) (hs : s.Sound) :
    ∀ d, t.pend = some d → d.Valid s.addrCombine := by
  intro d hd
  cases h with
  | discard | collectDetect | collectHeader1 | collectHeader2 | collectFrames | version1 | version2 =>
    exact hs.pend d hd
  | headerHeld c hst hlen hck =>
    obtain ⟨-, -, hver, -⟩ := (inv_iff_of_decodeHeader1 hst).mp hs.inv
    subst hck
    cases hd
    exact headerRecord_valid _ hlen hver
  | sync | illegal | reset | unsupported | unrecognized | headerMismatch | headerPacket | datagram
  | frameMismatch | packet => cases hd

/-- What a decoded instruction emits from a sound state is as R62 to R64 describe it. -/
theorem Effect.emits_valid (h : Effect s i t) (hs : s.Sound) (hi : i.WellFormed) :
    t.events = s.events ∨ ∃ e, t.events = s.events ++ [e] ∧ e.Valid s.addrCombine := by
  cases h with
  | sync | reset | discard | collectDetect | collectHeader1 | collectHeader2 | collectFrames | version1
  | version2 | headerHeld => exact .inl rfl
  | illegal b => exact .inr ⟨_, rfl, framingReport_valid hi⟩
  | unsupported => exact .inr ⟨_, rfl, .inr (.inl ⟨rfl, rfl, rfl, rfl⟩)⟩
  | unrecognized v => exact .inr ⟨_, rfl, unrecognizedReport_valid hi⟩
  | headerMismatch c hst hlen hck => exact .inr ⟨_, rfl, headerReport_valid hck⟩
  | headerPacket c hst hlen hck hcount =>
    obtain ⟨-, -, hver, -⟩ := (inv_iff_of_decodeHeader1 hst).mp hs.inv
    subst hck
    exact .inr ⟨_, rfl, headerRecord_valid _ hlen hver, by rw [hcount]; rfl⟩
  | datagram b hst hlen =>
    obtain ⟨-, -, hver, -⟩ := (inv_iff_of_decodeHeader2 hst).mp hs.inv
    exact .inr ⟨_, rfl, rfl, by simp [hlen], version_append b hver⟩
  | frameMismatch c d k hst hpend hlen hk =>
    obtain ⟨hlt, hbad, -⟩ := firstBad_eq_some.mp hk
    have hcount := (hs.pend d hpend).frameCount
    exact .inr ⟨_, rfl, frameReport_valid hbad (by omega)⟩
  | packet c d hst hpend =>
    exact .inr ⟨_, rfl, hs.pend d hpend, dataFrames_length _ _⟩

theorem Effect.keeps_sound (h : Effect s i t) (hs : s.Sound) (hi : i.WellFormed) : t.Sound where
  inv := h.keeps_inv hs.inv
  pend := by
    rw [h.addrCombine_eq]
    exact h.keeps_pend_valid hs
  events := by
    intro e he
    rw [h.addrCombine_eq]
    rcases h.emits_valid hs hi with heq | ⟨e', heq, hvalid⟩
    · exact hs.events e (heq ▸ he)
    · rcases List.mem_append.mp (heq ▸ he) with hold | hnew
      · exact hs.events e hold
      · obtain rfl := List.mem_singleton.mp hnew
        exact hvalid

/-- Settles O47: the decoder supplies that the operand is one its row admits. -/
theorem stepKeepsSoundness : Obligations.StepKeepsSoundness := by
  intro s t hs hstep
  rcases effect_of_step hstep with ⟨-, rfl⟩ | ⟨inp, rest, i, -, hdecode, heffect⟩
  · exact hs
  · exact heffect.keeps_sound (hs.withInput rest) (decode_wellFormed hdecode)

/-- Settles O46: nothing is pending and nothing was emitted. -/
theorem resetStateIsSound : Obligations.ResetStateIsSound where
  inv := resetStateSatisfiesTheInvariant
  pend _ h := nomatch h
  events _ h := nomatch h

/-! ## Reset, the header record and the numbers -/

/-- Settles O1: the reset input runs RESET, which leads to `INIT`. -/
theorem resetStateIsInit : Obligations.ResetStateIsInit :=
  ⟨⟨rfl, rfl, rfl, rfl⟩, fun s =>
    ⟨s.toInit, consume_of_decode (i := .reset) rfl, s.toInit_st, s.toInit_buf, s.toInit_pend, s.toInit_events⟩⟩

/-- Settles O13, by the definition of the record. -/
theorem headerRecordHoldsTheHeaderBytes : Obligations.HeaderRecordHoldsTheHeaderBytes :=
  fun _ _ _ _ _ _ _ _ _ _ => rfl

/-- R20 leaves the last three encodings of `st` unused. -/
theorem encoding_ne_unused (f : FsmState) :
    f.encoding ≠ 0b101 ∧ f.encoding ≠ 0b110 ∧ f.encoding ≠ 0b111 := by
  cases f <;> decide

/-- Settles O27: the tables by evaluation, the unused encodings state by state. -/
theorem numbersOfStatesEventsAndErrors : Obligations.NumbersOfStatesEventsAndErrors :=
  ⟨rfl, encoding_ne_unused, rfl, fun _ _ => rfl, fun _ => rfl, fun _ _ => rfl, rfl⟩

end Sys2Proof.Machine
end

section
/-! The bytes without effect (R43): the decoder answers an instruction whose encoding is the input, and only
three kinds of row can leave a state as it was. -/

namespace Sys2Proof

/-! ## The decoder answers an instruction of its input -/

theorem encode_decodeVersion (v : Septet) : encode (decodeVersion v) = .byte (dataByte v) := by
  unfold decodeVersion
  split
  · subst v; rfl
  · split
    · subst v; rfl
    · split
      · subst v; rfl
      · rfl

theorem encode_of_whenReached {n need : Nat} {collect act i : Instr} {r : Rejection} {inp : Input}
    (hcollect : encode collect = inp) (hact : encode act = inp)
    (h : whenReached n need collect act r = .instr i) : encode i = inp := by
  rcases whenReached_eq_instr.mp h with ⟨-, rfl⟩ | ⟨-, rfl⟩
  · exact hcollect
  · exact hact

theorem encode_of_decodeData {p : Position} {v : Septet} {i : Instr} (h : decodeData p v = .instr i) :
    encode i = .byte (dataByte v) := by
  unfold decodeData at h
  split at h
  case h_1 => cases h; rfl
  case h_2 => exact encode_of_whenReached rfl (encode_decodeVersion v) h
  case h_3 => exact encode_of_whenReached rfl rfl h
  case h_4 => exact encode_of_whenReached rfl rfl h
  case h_5 =>
    split at h
    · exact encode_of_whenReached rfl rfl h
    · cases h

/-- The decoded instruction determines the input it was read from (R49, R54). -/
theorem encode_of_decode {p : Position} {inp : Input} {i : Instr} (h : decode p inp = .instr i) :
    encode i = inp := by
  cases inp with
  | reset => cases h; rfl
  | byte b =>
    cases hc : byteClass b with
    | sync => simp only [decode, hc] at h; cases h; rw [byteClass_eq_sync.mp hc]; rfl
    | illegal => simp only [decode, hc] at h; cases h; rfl
    | data =>
      simp only [decode, hc] at h
      rw [encode_of_decodeData h, dataByte_payload hc]

end Sys2Proof

namespace Sys2Proof.Machine

variable {s t : State} {i : Instr} {inp : Input}

/-! ## What consuming an input changes -/

/-- An input is consumed exactly by the instruction that the decoder answers for it. -/
theorem consume_eq_next :
    consume inp s = .next t ↔ ∃ i, decode s.position inp = .instr i ∧ exec i s = .next t := by
  unfold consume
  cases decode s.position inp <;> simp

/-- R69, as the consumption of the byte. -/
theorem consume_syncByte (s : State) : consume (.byte syncByte) s = .next s.resync :=
  consume_of_decode (i := .sync) rfl

/-- R72, as the consumption of the byte. -/
theorem consume_data_of_waitSync {b : Byte} (hst : s.st = .waitSync) (hb : byteClass b = .data) :
    consume (.byte b) s = .next s :=
  consume_eq_next.mpr
    ⟨.dataWaitSync (payload b), by simp [decode, decodeData, hb, hst],
      execDataWaitSync_eq_next.mpr ⟨hst, rfl⟩⟩

/-- Restarting detection (R69) changes nothing exactly where detection has just started. -/
theorem resync_eq_self : s.resync = s ↔ s.st = .detectHeaderType ∧ s.buf = [] ∧ s.pend = none := by
  constructor
  · intro h
    rw [← h]
    exact ⟨rfl, rfl, rfl⟩
  · rintro ⟨hst, hbuf, hpend⟩
    rw [State.resync, ← hst, ← hbuf, ← hpend]

theorem append_ne_self (b : Septet) : s.append b ≠ s := fun h => by
  simpa using congrArg (fun u : State => u.buf.length) h

theorem ne_of_st_ne (h : t.st ≠ s.st) : t ≠ s := fun heq => h (congrArg State.st heq)

theorem ne_of_emitted {e : Event} (h : t.events = s.events ++ [e]) : t ≠ s := fun heq => by
  simp [heq] at h

/-- Collecting rows lengthen the buffer, rows that accept a version or a header move on, and rows that report
emit an event: only discarding, restarting and resetting can leave a state as it was. -/
theorem Effect.of_unchanged (h : Effect s i t) (heq : t = s) :
    (∃ v, i = .dataWaitSync v ∧ s.st = .waitSync) ∨ (i = .sync ∧ s.resync = s) ∨ i = .reset := by
  cases h with
  | discard v hst => exact .inl ⟨v, rfl, hst⟩
  | sync => exact .inr (.inl ⟨rfl, heq⟩)
  | reset => exact .inr (.inr rfl)
  | collectDetect b | collectHeader1 b | collectHeader2 b | collectFrames b =>
    exact absurd heq (append_ne_self b)
  | version1 hst | version2 hst | headerHeld c hst => exact absurd heq (ne_of_st_ne (by simp [hst]))
  | illegal | unsupported | unrecognized | headerMismatch | headerPacket | datagram | frameMismatch
  | packet => exact absurd heq (ne_of_emitted rfl)

/-- Settles O38: the byte is read back from the instruction that left the state as it was, and R27 supplies
that no header is pending while detection waits for its first byte. -/
theorem byteWithoutEffect : Obligations.ByteWithoutEffect := by
  intro s b hinv
  constructor
  · intro hconsume
    obtain ⟨i, hdecode, hexec⟩ := consume_eq_next.mp hconsume
    have hencode : encode i = .byte b := encode_of_decode hdecode
    rcases (effect_of_exec hexec).of_unchanged rfl with ⟨v, rfl, hst⟩ | ⟨rfl, hresync⟩ | rfl
    · obtain rfl : dataByte v = b := Input.byte.inj hencode
      exact .inl ⟨hst, byteClass_dataByte v⟩
    · obtain ⟨hst, hbuf, -⟩ := resync_eq_self.mp hresync
      exact .inr ⟨hst, hbuf, (Input.byte.inj hencode).symm⟩
    · cases hencode
  · rintro (⟨hst, hb⟩ | ⟨hst, hbuf, rfl⟩)
    · exact consume_data_of_waitSync hst hb
    · obtain ⟨-, hpend⟩ := (inv_iff_of_detectHeaderType hst).mp hinv
      rw [consume_syncByte, resync_eq_self.mpr ⟨hst, hbuf, hpend⟩]

/-- Both kinds of byte occur: a DATA byte after reset, and a second sync byte after a first. -/
theorem byteWithoutEffect_occurs :
    consume (.byte 0x7F) State.reset = .next State.reset ∧
    consume (.byte 0xAA) State.reset.resync = .next State.reset.resync :=
  ⟨(byteWithoutEffect _ _ resetStateSatisfiesTheInvariant).mpr (.inl ⟨rfl, by decide⟩),
    (byteWithoutEffect _ _ (Effect.sync.keeps_inv resetStateSatisfiesTheInvariant)).mpr
      (.inr ⟨rfl, rfl, rfl⟩)⟩

end Sys2Proof.Machine
end

section
/-! The encoding (R49, R54, R59): the decoder and the encoder agree on every row, a meaning completes exactly
where its row applies, and the sizes of the byte classes. -/

namespace Sys2Proof

/-! ## The decoder answers only rows that apply -/

theorem enabledAt_decodeVersion (p : Position) (v : Septet) :
    (decodeVersion v).enabledAt p = (p.st == .detectHeaderType && p.len + 1 == detectLen) := by
  unfold decodeVersion
  split
  · rfl
  · split
    · rfl
    · split <;> rfl

theorem enabledAt_of_whenReached {p : Position} {n need : Nat} {collect act i : Instr} {r : Rejection}
    (hcollect : n < need → collect.enabledAt p = true) (hact : n = need → act.enabledAt p = true)
    (h : whenReached n need collect act r = .instr i) : i.enabledAt p = true := by
  rcases whenReached_eq_instr.mp h with ⟨hlt, rfl⟩ | ⟨heq, rfl⟩
  · exact hcollect hlt
  · exact hact heq

theorem enabledAt_of_decodeData {p : Position} {b : Septet} {i : Instr} (h : decodeData p b = .instr i) :
    i.enabledAt p = true := by
  unfold decodeData at h
  split at h
  case h_1 hst => cases h; simp [Instr.enabledAt, hst]
  case h_2 hst =>
    exact enabledAt_of_whenReached (by simp [Instr.enabledAt, hst])
      (by simp [enabledAt_decodeVersion, hst]) h
  case h_3 hst =>
    exact enabledAt_of_whenReached (by simp [Instr.enabledAt, hst]) (by simp [Instr.enabledAt, hst]) h
  case h_4 hst =>
    exact enabledAt_of_whenReached (by simp [Instr.enabledAt, hst]) (by simp [Instr.enabledAt, hst]) h
  case h_5 hst =>
    split at h
    case h_1 hfc =>
      exact enabledAt_of_whenReached (by simp [Instr.enabledAt, hst, hfc])
        (by simp [Instr.enabledAt, hst, hfc]) h
    case h_2 => cases h

/-- A decoded instruction is a row whose state and condition hold at the position (R59). -/
theorem enabledAt_of_decode {p : Position} {inp : Input} {i : Instr} (h : decode p inp = .instr i) :
    i.enabledAt p = true := by
  cases inp with
  | reset => cases h; rfl
  | byte b =>
    cases hc : byteClass b with
    | sync => simp only [decode, hc] at h; cases h; rfl
    | illegal => simp only [decode, hc] at h; cases h; rfl
    | data => simp only [decode, hc] at h; exact enabledAt_of_decodeData h

/-! ## Decode and encode -/

/-- The round trips of `Laws.RoundTrip`, for every row. -/
theorem decode_encode (i : Instr) : Laws.RoundTrip.Statement i := by
  cases i with
  | sync => exact Laws.RoundTrip.sync
  | illegal b => exact Laws.RoundTrip.illegal b
  | dataWaitSync b => exact Laws.RoundTrip.dataWaitSync b
  | dataDetect b => exact Laws.RoundTrip.dataDetect b
  | verV1 => exact Laws.RoundTrip.verV1
  | verV2 => exact Laws.RoundTrip.verV2
  | verUnsup => exact Laws.RoundTrip.verUnsup
  | verOther v => exact Laws.RoundTrip.verOther v
  | dataHdr1 b => exact Laws.RoundTrip.dataHdr1 b
  | hdr1Check c => exact Laws.RoundTrip.hdr1Check c
  | dataHdr2 b => exact Laws.RoundTrip.dataHdr2 b
  | hdr2Done b => exact Laws.RoundTrip.hdr2Done b
  | dataFrames b => exact Laws.RoundTrip.dataFrames b
  | framesDone c => exact Laws.RoundTrip.framesDone c
  | reset => exact Laws.RoundTrip.reset

/-- Settles O28: what the decoder answers is well formed, applies, and encodes back to its input; the other
way is the round trip of each row. -/
theorem decodeAndEncodeAgree : Obligations.DecodeAndEncodeAgree := by
  intro p inp i
  constructor
  · intro h
    exact ⟨decode_wellFormed h, enabledAt_of_decode h, encode_of_decode h⟩
  · rintro ⟨hwf, henabled, rfl⟩
    exact decode_encode i hwf p henabled

/-- Settles O30: each word is the encoding of its row. -/
theorem sampleWordsDecode : Obligations.SampleWordsDecode := by
  refine ⟨?_, ?_, ?_, ?_, ?_, ?_, ?_, ?_, ?_, ?_, ?_, ?_, ?_, ?_⟩ <;>
    exact (decodeAndEncodeAgree _ _ _).mpr (by decide)

/-! ## Byte classes -/

/-- R49 in integers. -/
theorem byteClass_eq_of_toNat (b : Byte) :
    byteClass b = if b.toNat = 0xAA then .sync else if 0x80 ≤ b.toNat then .illegal else .data := by
  have hsync : b = syncByte ↔ b.toNat = 0xAA := BitVec.toNat_inj.symm
  have hhigh : b[7] = true ↔ 0x80 ≤ b.toNat := by
    rw [show b[7] = decide (128 ≤ b.toNat) from BitVec.msb_eq_decide b, decide_eq_true_iff]
  simp only [byteClass, hsync, hhigh]

theorem byteClass_ofNat {n : Nat} (h : n < 256) :
    byteClass (BitVec.ofNat 8 n) = if n = 0xAA then .sync else if 0x80 ≤ n then .illegal else .data := by
  rw [byteClass_eq_of_toNat, BitVec.toNat_ofNat, Nat.mod_eq_of_lt h]

/-- How many of the byte values from `first` to `first + n - 1` have class `c`, where all have class `c'`. -/
theorem countP_class_of_run {first n : Nat} {c' : ByteClass}
    (hrun : ∀ k, first ≤ k → k < first + n → byteClass (BitVec.ofNat 8 k) = c') (c : ByteClass) :
    (List.range' first n).countP (fun k => byteClass (BitVec.ofNat 8 k) = c) = if c' = c then n else 0 := by
  have hclass : ∀ k ∈ List.range' first n, byteClass (BitVec.ofNat 8 k) = c' := fun k hk => by
    obtain ⟨hfirst, hlast⟩ := List.mem_range'_1.mp hk
    exact hrun k hfirst hlast
  split
  case isTrue heq =>
    rw [List.countP_eq_length.mpr fun k hk => decide_eq_true ((hclass k hk).trans heq), List.length_range']
  case isFalse hne =>
    exact List.countP_eq_zero.mpr fun k hk => by simp [hclass k hk, hne]

/-- The byte values in order: 128 of class DATA, then 128 of class ILLEGAL with the sync byte among them. -/
theorem countP_class (c : ByteClass) :
    (List.range 256).countP (fun k => byteClass (BitVec.ofNat 8 k) = c) =
      (if .data = c then 128 else 0) + (if .illegal = c then 42 else 0) + (if .sync = c then 1 else 0) +
        (if .illegal = c then 85 else 0) := by
  have hruns : List.range 256 =
      List.range' 0 128 ++ List.range' 128 42 ++ List.range' 170 1 ++ List.range' 171 85 := by
    rw [List.range_eq_range', show 256 = 128 + 42 + 1 + 85 from rfl, ← List.range'_append_1,
      ← List.range'_append_1, ← List.range'_append_1]
  have hdata := countP_class_of_run (first := 0) (n := 128) (c' := .data) (fun k hfirst hlast => by
    rw [byteClass_ofNat (by omega), if_neg (by omega), if_neg (by omega)]) c
  have hlow := countP_class_of_run (first := 128) (n := 42) (c' := .illegal) (fun k hfirst hlast => by
    rw [byteClass_ofNat (by omega), if_neg (by omega), if_pos (by omega)]) c
  have hsync := countP_class_of_run (first := 170) (n := 1) (c' := .sync) (fun k hfirst hlast => by
    rw [byteClass_ofNat (by omega), if_pos (by omega)]) c
  have hhigh := countP_class_of_run (first := 171) (n := 85) (c' := .illegal) (fun k hfirst hlast => by
    rw [byteClass_ofNat (by omega), if_neg (by omega), if_pos (by omega)]) c
  rw [hruns, List.countP_append, List.countP_append, List.countP_append, hdata, hlow, hsync, hhigh]

/-- Settles O3: the classes by the formula, their sizes by the runs of byte values. -/
theorem byteClassesPartitionTheBytes : Obligations.ByteClassesPartitionTheBytes :=
  ⟨byteClass_eq_of_toNat, countP_class .sync, countP_class .illegal, countP_class .data⟩

end Sys2Proof

namespace Sys2Proof.Machine

variable {s : State}

/-! ## The action map -/

/-- A row that applies and whose encoding is a DATA byte is the one decoded from that byte. -/
theorem decode_eq_of_enabled {b : Septet} {i : Instr} (hwf : i.WellFormed)
    (hencode : encode i = .byte (dataByte b)) (henabled : i.enabledAt s.position = true) :
    decode s.position (.byte (dataByte b)) = .instr i :=
  (decodeAndEncodeAgree _ _ _).mpr ⟨hwf, henabled, hencode⟩

/-- The dispatch on the fifth byte (R54). -/
theorem decode_version (b : Septet) (hst : s.st = .detectHeaderType) (hlen : s.buf.length = 4) :
    decode s.position (.byte (dataByte b)) = .instr (decodeVersion b) :=
  decode_eq_of_enabled (decodeVersion_wellFormed b) (encode_decodeVersion b)
    (by simp [enabledAt_decodeVersion, hst, hlen])

/-- Settles O7: where a row of R59 applies, it is the one decoded. -/
theorem actionMapSelectsTheRow : Obligations.ActionMapSelectsTheRow := by
  rintro s b d rfl
  refine ⟨fun hst => ?_, fun hst => ⟨fun hlt => ?_, fun heq => ?_⟩, fun hst => ⟨fun hlt => ?_, fun heq => ?_⟩,
    fun hst => ⟨fun hlt => ?_, fun heq => ?_⟩, fun h hst hpend => ⟨fun hlt => ?_, fun heq => ?_⟩⟩
  · exact decode_eq_of_enabled rfl rfl (dataWaitSync_enabled.mpr hst)
  · exact decode_eq_of_enabled rfl rfl (dataDetect_enabled.mpr ⟨hst, by omega⟩)
  · exact decode_version b hst (by omega)
  · exact decode_eq_of_enabled rfl rfl (dataHdr1_enabled.mpr ⟨hst, by omega⟩)
  · exact decode_eq_of_enabled rfl rfl (hdr1Check_enabled.mpr ⟨hst, by omega⟩)
  · exact decode_eq_of_enabled rfl rfl (dataHdr2_enabled.mpr ⟨hst, by omega⟩)
  · exact decode_eq_of_enabled rfl rfl (hdr2Done_enabled.mpr ⟨hst, by omega⟩)
  · exact decode_eq_of_enabled rfl rfl (dataFrames_enabled.mpr ⟨hst, h, hpend, hlt⟩)
  · exact decode_eq_of_enabled rfl rfl (framesDone_enabled.mpr ⟨hst, h, hpend, heq⟩)

/-! ## Where the meanings complete -/

/-- Every meaning is some next state guarded by its row: the rows without a condition always apply, and
FRAMES.DONE never does without a pending header. -/
theorem exec_eq_inPlace (i : Instr) (s : State) : ∃ t, exec i s = s.inPlace i t := by
  cases i with
  | framesDone c =>
    cases hpend : s.pend with
    | none =>
      have hoff : (Instr.framesDone c).enabledAt s.position = false := by simp [Instr.enabledAt, hpend]
      exact ⟨s, by rw [inPlace_of_not_enabled hoff]; simp [exec, execFramesDone, hpend]⟩
    | some h => exact ⟨(s.append c).closeGroup h, by simp [exec, execFramesDone, hpend]⟩
  | _ => exact ⟨_, rfl⟩

/-- Settles O34, by the guard that every meaning has. -/
theorem meaningsCompleteWhereTheirRowApplies : Obligations.MeaningsCompleteWhereTheirRowApplies := by
  intro i s
  obtain ⟨t, hexec⟩ := exec_eq_inPlace i s
  exact ⟨fun hon => ⟨t, hexec.trans (inPlace_of_enabled hon)⟩,
    fun hoff => hexec.trans (inPlace_of_not_enabled hoff)⟩

end Sys2Proof.Machine
end

section
/-! Feeding the stream forms of R51 and R53. In each FSM state that collects bytes, all DATA bytes but the last
are collected and the last one runs the state's action; the phases of a packet are composed from this. -/

namespace Sys2Proof.Machine

variable {s : State}

/-! ## Feeding -/

theorem feed_cons_of_consume {inp : Input} {t : State} (h : consume inp s = .next t) (rest : List Input) :
    feed (inp :: rest) s = feed rest t := by
  rw [feed_cons, h, andThen_next]

@[simp] theorem dataInputs_nil : dataInputs [] = [] := rfl

@[simp] theorem dataInputs_cons (b : Septet) (bs : List Septet) :
    dataInputs (b :: bs) = .byte (dataByte b) :: dataInputs bs := rfl

@[simp] theorem dataInputs_append (bs cs : List Septet) :
    dataInputs (bs ++ cs) = dataInputs bs ++ dataInputs cs := List.map_append

theorem enabledAt_of_exec {i : Instr} {t : State} (h : exec i s = .next t) :
    i.enabledAt s.position = true := by
  obtain ⟨u, hu⟩ := exec_eq_inPlace i s
  obtain ⟨henabled, -⟩ := inPlace_eq_next.mp (hu.symm.trans h)
  exact henabled

/-- An instruction that completes is the one its encoding runs. -/
theorem consume_of_exec {inp : Input} {i : Instr} {t : State} (hwf : i.WellFormed) (hencode : encode i = inp)
    (hexec : exec i s = .next t) : consume inp s = .next t :=
  consume_eq_next.mpr ⟨i, (decodeAndEncodeAgree _ _ _).mpr ⟨hwf, enabledAt_of_exec hexec, hencode⟩, hexec⟩

/-! ## Collecting bytes up to an action -/

/-- In the FSM state and with the pending header of `s`, a DATA byte before the `need`-th is appended. -/
def State.Collects (s : State) (need : Nat) : Prop :=
  ∀ buf b, buf.length + 1 < need →
    consume (.byte (dataByte b)) { s with buf := buf } = .next { s with buf := buf ++ [b] }

/-- In the FSM state and with the pending header of `s`, the `need`-th DATA byte is appended and `act` done. -/
def State.ActsAt (s : State) (need : Nat) (act : State → State) : Prop :=
  ∀ buf b, buf.length + 1 = need →
    consume (.byte (dataByte b)) { s with buf := buf } = .next (act { s with buf := buf ++ [b] })

/-- Too few bytes for the action are appended. -/
theorem feed_collected {need : Nat} (hcollects : s.Collects need) (rest : List Input) :
    ∀ bs buf : List Septet, buf.length + bs.length < need →
      feed (dataInputs bs ++ rest) { s with buf := buf } = feed rest { s with buf := buf ++ bs } := by
  intro bs
  induction bs with
  | nil => simp
  | cons b bs ih =>
    intro buf hlen
    rw [List.length_cons] at hlen
    rw [dataInputs_cons, List.cons_append, feed_cons_of_consume (hcollects buf b (by omega)),
      ih (buf ++ [b]) (by simp; omega), List.append_assoc, List.singleton_append]

/-- Just enough bytes for the action are appended, and the action is done. -/
theorem feed_acted {need : Nat} {act : State → State} {buf bs : List Septet} (hcollects : s.Collects need)
    (hacts : s.ActsAt need act) (hne : bs ≠ []) (hlen : buf.length + bs.length = need) (rest : List Input) :
    feed (dataInputs bs ++ rest) { s with buf := buf } = feed rest (act { s with buf := buf ++ bs }) := by
  obtain ⟨init, b, rfl⟩ := List.eq_nil_or_concat' bs |>.resolve_left hne
  rw [List.length_append, List.length_singleton] at hlen
  rw [dataInputs_append, List.append_assoc, feed_collected hcollects _ init buf (by omega), dataInputs_cons,
    List.cons_append, feed_cons_of_consume (hacts (buf ++ init) b (by simp; omega)), dataInputs_nil,
    List.nil_append, List.append_assoc]

theorem collects_of_detectHeaderType (hst : s.st = .detectHeaderType) : s.Collects 5 := fun _ b hlen =>
  consume_of_exec (i := .dataDetect b) rfl rfl
    (execDataDetect_eq_next.mpr ⟨⟨hst, Nat.lt_of_succ_lt_succ hlen⟩, rfl⟩)

theorem collects_of_decodeHeader1 (hst : s.st = .decodeHeader1) : s.Collects 9 := fun _ b hlen =>
  consume_of_exec (i := .dataHdr1 b) rfl rfl
    (execDataHdr1_eq_next.mpr ⟨⟨hst, Nat.lt_of_succ_lt_succ hlen⟩, rfl⟩)

theorem actsAt_of_decodeHeader1 (hst : s.st = .decodeHeader1) : s.ActsAt 9 State.checkHeader :=
  fun _ b hlen =>
    consume_of_exec (i := .hdr1Check b) rfl rfl
      (execHdr1Check_eq_next.mpr ⟨⟨hst, Nat.succ.inj hlen⟩, rfl⟩)

theorem collects_of_decodeHeader2 (hst : s.st = .decodeHeader2) : s.Collects 15 := fun _ b hlen =>
  consume_of_exec (i := .dataHdr2 b) rfl rfl
    (execDataHdr2_eq_next.mpr ⟨⟨hst, Nat.lt_of_succ_lt_succ hlen⟩, rfl⟩)

theorem actsAt_of_decodeHeader2 (hst : s.st = .decodeHeader2) : s.ActsAt 15 State.datagramFault :=
  fun _ b hlen =>
    consume_of_exec (i := .hdr2Done b) rfl rfl
      (execHdr2Done_eq_next.mpr ⟨⟨hst, Nat.succ.inj hlen⟩, rfl⟩)

theorem collects_of_decodeFrames {h : Header} (hst : s.st = .decodeFrames) (hpend : s.pend = some h) :
    s.Collects (6 * h.frameCount.toNat) := fun _ b hlen =>
  consume_of_exec (i := .dataFrames b) rfl rfl
    (execDataFrames_eq_next.mpr ⟨⟨hst, h, hpend, hlen⟩, rfl⟩)

theorem actsAt_of_decodeFrames {h : Header} (hst : s.st = .decodeFrames) (hpend : s.pend = some h) :
    s.ActsAt (6 * h.frameCount.toNat) (·.closeGroup h) := fun _ b hlen =>
  consume_of_exec (i := .framesDone b) rfl rfl
    (execFramesDone_eq_next.mpr ⟨hst, h, hpend, hlen, rfl⟩)

/-! ## The phases of a packet -/

/-- The state inside a header that a sync byte has started in `s`, with `buf` collected (R27). -/
def State.inHeader (s : State) (f : FsmState) (buf : List Septet) : State :=
  { s with st := f, buf := buf, pend := none }

/-- The sync byte and four header bytes bring every state to the version byte (R69, R76). -/
theorem feed_sync_detect {before : List Septet} (hlen : before.length = 4) (rest : List Input) (s : State) :
    feed (.byte syncByte :: (dataInputs before ++ rest)) s =
      feed rest (s.inHeader .detectHeaderType before) := by
  rw [feed_cons_of_consume (consume_syncByte s)]
  exact feed_collected (s := s.resync) (collects_of_detectHeaderType rfl) rest before [] (by simp [hlen])

/-- R78, as the consumption of the byte. -/
theorem consume_version1 (hst : s.st = .detectHeaderType) (hlen : s.buf.length = 4) :
    consume (.byte (dataByte verCodeV1)) s = .next ((s.append verCodeV1).goTo .decodeHeader1) :=
  consume_of_exec (i := .verV1) rfl rfl (execVerV1_eq_next.mpr ⟨⟨hst, hlen⟩, rfl⟩)

/-- R79, as the consumption of the byte. -/
theorem consume_version2 (hst : s.st = .detectHeaderType) (hlen : s.buf.length = 4) :
    consume (.byte (dataByte verCodeV2)) s = .next ((s.append verCodeV2).goTo .decodeHeader2) :=
  consume_of_exec (i := .verV2) rfl rfl (execVerV2_eq_next.mpr ⟨⟨hst, hlen⟩, rfl⟩)

/-- A protocol-1.0 header on the wire, whatever its checksum byte, is checked (R84). -/
theorem feed_header1 (f : HeaderFields) (d : Septet) (rest : List Input) (s : State) :
    feed (.byte syncByte :: (dataInputs (f.wire d) ++ rest)) s =
      feed rest (s.inHeader .decodeHeader1 (f.wire d)).checkHeader := by
  have hwire : dataInputs (f.wire d) = dataInputs [f.a0, f.a1, f.a2, f.a3] ++
      (.byte (dataByte verCodeV1) :: dataInputs [f.c0, f.c1, f.n, ck7 f.body + d]) := rfl
  rw [hwire, List.append_assoc, feed_sync_detect rfl, List.cons_append,
    feed_cons_of_consume (consume_version1 rfl rfl)]
  exact feed_acted (s := s.inHeader .decodeHeader1 []) (collects_of_decodeHeader1 rfl)
    (actsAt_of_decodeHeader1 rfl) (List.cons_ne_nil _ _) rfl rest

/-- A protocol-2.0 header on the wire is a datagram fault (R92). -/
theorem feed_header2 {before after : List Septet} (hbefore : before.length = 4) (hafter : after.length = 10)
    (rest : List Input) (s : State) :
    feed (.byte syncByte :: (dataInputs (hdr2Wire before after) ++ rest)) s =
      feed rest (s.inHeader .decodeHeader2 (hdr2Wire before after)).datagramFault := by
  have hne : after ≠ [] := List.ne_nil_of_length_eq_add_one hafter
  have hlen : (before ++ [verCodeV2]).length + after.length = 15 := by simp [hbefore, hafter]
  rw [hdr2Wire, dataInputs_append, dataInputs_append, List.append_assoc, List.append_assoc,
    feed_sync_detect hbefore, dataInputs_cons, List.cons_append,
    feed_cons_of_consume (consume_version2 rfl hbefore)]
  exact feed_acted (s := s.inHeader .decodeHeader2 []) (collects_of_decodeHeader2 rfl)
    (actsAt_of_decodeHeader2 rfl) hne hlen rest

/-- The frame group that the held header declares is closed at its last byte (R95). -/
theorem feed_frames {h : Header} {fs : List WireFrame} (hcount : fs.length = h.frameCount.toNat)
    (hne : fs ≠ []) (s : State) (rest : List Input) :
    feed (dataInputs (groupBytes fs) ++ rest) (s.hold h) =
      feed rest (State.closeGroup { s.hold h with buf := groupBytes fs } h) := by
  have hpos := List.length_pos_iff.mpr hne
  have hbytes : groupBytes fs ≠ [] := List.length_pos_iff.mp (by rw [groupBytes_length]; omega)
  exact feed_acted (s := s.hold h) (buf := []) (collects_of_decodeFrames rfl rfl)
    (actsAt_of_decodeFrames rfl rfl) hbytes (by rw [groupBytes_length, hcount]; simp) rest

/-! ## The header of the form HDR1 -/

/-- The checksum byte of HDR1 is the checksum of the bytes before it (R65, R86). -/
theorem wire_checksum (f : HeaderFields) : entry f.wire 8 = headerCk f.wire := by
  have hbyte : entry f.wire 8 = ck7 f.body + 0 := rfl
  have hck : headerCk f.wire = ck7 f.body := rfl
  rw [hbyte, hck]
  exact BitVec.add_zero _

theorem headerRecord_wire_frameCount (c : AddrCombine) (f : HeaderFields) :
    (headerRecord c f.wire).frameCount = dataByte f.n := rfl

/-- R88 for HDR1. -/
theorem checkHeader_wire_of_noFrames {f : HeaderFields} (hbuf : s.buf = f.wire) (hn : f.n.toNat = 0) :
    s.checkHeader = (s.emit (.packet (headerRecord s.addrCombine f.wire) [])).toInit := by
  have hcount : (headerRecord s.addrCombine f.wire).frameCount = 0 :=
    BitVec.eq_of_toNat_eq ((dataByte_toNat f.n).trans hn)
  rcases checkHeader_cases s with ⟨hck, -⟩ | ⟨-, -, h⟩ | ⟨-, hframes, -⟩
  · rw [hbuf] at hck
    exact absurd (wire_checksum f) hck
  · rw [h, hbuf]
  · rw [hbuf] at hframes
    exact absurd hcount hframes

/-- R87 for HDR1. -/
theorem checkHeader_wire_of_frames {f : HeaderFields} (hbuf : s.buf = f.wire) (hn : f.n.toNat ≠ 0) :
    s.checkHeader = s.hold (headerRecord s.addrCombine f.wire) := by
  rcases checkHeader_cases s with ⟨hck, -⟩ | ⟨-, hcount, -⟩ | ⟨-, -, h⟩
  · rw [hbuf] at hck
    exact absurd (wire_checksum f) hck
  · rw [hbuf] at hcount
    have hzero := congrArg BitVec.toNat hcount
    rw [headerRecord_wire_frameCount, dataByte_toNat] at hzero
    exact absurd hzero hn
  · rw [h, hbuf]

/-! ## The frames of the form FRAME -/

/-- The bits of a reconstructed data byte (R100): seven from the wire byte, the high one from the extension. -/
theorem getLsbD_reconByte (x m : Septet) {i j : Nat} (hi : i < 7) (hj : j < 8) :
    (reconByte x m i).getLsbD j = if j = 7 then m.getLsbD i else x.getLsbD j := by
  rcases Nat.lt_or_eq_of_le (Nat.le_of_lt_succ hj) with hlow | rfl
  · simp [reconByte, hlow, hj, hlow.ne]
  · simp [reconByte, Nat.lt_succ_of_lt hi]

/-- Reconstruction gives back a byte whose high bit stands in the extension (R100). -/
theorem reconByte_setWidth {d : Byte} {m : Septet} {i : Nat} (hi : i < 7) (h : m.getLsbD i = d.getLsbD 7) :
    reconByte (d.setWidth 7) m i = d := by
  apply BitVec.eq_of_getLsbD_eq
  intro j hj
  rw [getLsbD_reconByte _ _ hi hj]
  split
  case isTrue heq => rw [h, heq]
  case isFalse hne => rw [BitVec.getLsbD_setWidth, decide_eq_true (by omega), Bool.true_and]

/-- The high bits of the four data bytes, in order, are the low bits of the extension byte (R65). -/
theorem getLsbD_msbOf (d : DataFrame) :
    (msbOf d).getLsbD 0 = d.d0.getLsbD 7 ∧ (msbOf d).getLsbD 1 = d.d1.getLsbD 7 ∧
      (msbOf d).getLsbD 2 = d.d2.getLsbD 7 ∧ (msbOf d).getLsbD 3 = d.d3.getLsbD 7 := by
  simp [msbOf]

theorem recon_frameOf (d : DataFrame) : recon (frameOf d) = d := by
  obtain ⟨h0, h1, h2, h3⟩ := getLsbD_msbOf d
  simp only [recon, frameOf, reconByte_setWidth (by decide : 0 < 7) h0,
    reconByte_setWidth (by decide : 1 < 7) h1, reconByte_setWidth (by decide : 2 < 7) h2,
    reconByte_setWidth (by decide : 3 < 7) h3]

theorem frameGood_frameOf (d : DataFrame) : frameGood (frameOf d) = true := by
  simp [frameGood, frameOf, frameCk]

/-- A group of FRAME forms has no bad frame. -/
theorem firstBad_frames (frames : List DataFrame) :
    firstBad (groupBytes (frames.map frameOf)) frames.length = none := by
  refine firstBad_eq_none.mpr fun k hk => ?_
  rw [frameAt_groupBytes _ k (by simpa using hk), List.getElem_map, frameGood_frameOf]

/-- A group of FRAME forms decodes to the frames it was made of. -/
theorem dataFrames_frames (frames : List DataFrame) :
    dataFrames (groupBytes (frames.map frameOf)) frames.length = frames := by
  refine List.ext_getElem (dataFrames_length _ _) fun k hk hk' => ?_
  simp only [dataFrames, List.getElem_map, List.getElem_range]
  rw [frameAt_groupBytes _ k (by simpa using hk'), List.getElem_map, recon_frameOf]

/-- R103 for a group of FRAME forms. -/
theorem closeGroup_frames {h : Header} {frames : List DataFrame} (hcount : frames.length = h.frameCount.toNat)
    (hbuf : s.buf = groupBytes (frames.map frameOf)) :
    s.closeGroup h = (s.emit (.packet h frames)).toInit := by
  rcases closeGroup_cases s h with ⟨hlen, -⟩ | ⟨-, k, hbad, -⟩ | ⟨-, -, heq⟩
  · exact absurd (by simp [hbuf, hcount]) hlen
  · rw [hbuf, ← hcount, firstBad_frames] at hbad
    cases hbad
  · rw [heq, hbuf, ← hcount, dataFrames_frames]

/-! ## The two streams -/

/-- Settles O51: the header is checked, and then either it is the whole packet or its frames follow. -/
theorem packetOnTheWireIsDecoded : Obligations.PacketOnTheWireIsDecoded := by
  intro f frames s hlen
  rw [packetInputs, streamInputs, dataInputs_append, feed_header1]
  by_cases hn : f.n.toNat = 0
  · obtain rfl : frames = [] := List.length_eq_zero_iff.mp (hlen.trans hn)
    rw [checkHeader_wire_of_noFrames rfl hn]
    rfl
  · have hcount : frames.length = (headerRecord s.addrCombine f.wire).frameCount.toNat :=
      hlen.trans (dataByte_toNat f.n).symm
    have hheld : (s.inHeader .decodeHeader1 f.wire).checkHeader =
        (s.inHeader .decodeHeader1 f.wire).hold (headerRecord s.addrCombine f.wire) :=
      checkHeader_wire_of_frames rfl hn
    have hne : frames.map frameOf ≠ [] := fun hnil => hn (by rw [← hlen, List.map_eq_nil_iff.mp hnil]; rfl)
    rw [hheld, ← List.append_nil (dataInputs (groupBytes _)),
      feed_frames ((List.length_map _).trans hcount) hne, closeGroup_frames hcount rfl]
    rfl

/-- Settles O54: after the sync byte and four header bytes, the version byte selects the protocol-2.0 header,
whose last byte is the fault. -/
theorem datagramHeaderOnTheWireIsOneFault : Obligations.DatagramHeaderOnTheWireIsOneFault := by
  intro before after s hbefore hafter
  rw [← List.append_nil (dataInputs _), feed_header2 hbefore hafter]
  rfl

end Sys2Proof.Machine
end

section
/-! Byte synchronisation and the feed (R66 to R75): the rows of byte classification, what a step may emit, that
no input stops the block, and how a feed divides into chunks and into steps of the machine. -/

namespace Sys2Proof.Machine

variable {s t : State} {i : Instr} {inp : Input}

/-! ## The rows of byte classification -/

/-- Settles O4. -/
theorem syncByteRestartsHeaderDetection : Obligations.SyncByteRestartsHeaderDetection :=
  fun _ => ⟨decode_encode .sync rfl _ rfl, execSync_eq_next.mpr rfl⟩

/-- Settles O5: the two hypotheses are the operand values that the row ILLEGAL admits. -/
theorem illegalByteRaisesFramingError : Obligations.IllegalByteRaisesFramingError :=
  fun s b hhigh hsync =>
    ⟨decode_encode (.illegal b) (illegal_wellFormed.mpr ⟨hhigh, hsync⟩) s.position rfl,
      execIllegal_eq_next.mpr rfl⟩

/-- Settles O6. -/
theorem dataByteInWaitSyncIsDiscarded : Obligations.DataByteInWaitSyncIsDiscarded :=
  fun _ _ hst =>
    ⟨decode_eq_of_enabled rfl rfl (dataWaitSync_enabled.mpr hst), execDataWaitSync_eq_next.mpr ⟨hst, rfl⟩⟩

/-! ## The step -/

/-- Settles O32: the position does not read the waiting inputs, so the decoded instruction is the same before and
after the input is fetched. -/
theorem stepRunsTheDecodedInstruction : Obligations.StepRunsTheDecodedInstruction := by
  intro s inp rest i hinput hdecode
  have hconsumed : decode ({ s with input := rest } : State).position inp = .instr i := hdecode
  rw [step_of_cons hinput, consume_of_decode hconsumed]

/-- Settles O33. -/
theorem stepWithoutInputKeepsTheState : Obligations.StepWithoutInputKeepsTheState :=
  fun _ => step_of_nil

/-- The rows that restart, discard, collect or accept emit nothing; the others emit their one event last (R68). -/
theorem Effect.emits_at_most_one (h : Effect s i t) :
    t.events = s.events ∨ ∃ e, t.events = s.events ++ [e] := by
  cases h with
  | sync | reset | discard | collectDetect | collectHeader1 | collectHeader2 | collectFrames | version1
  | version2 | headerHeld => exact .inl rfl
  | illegal | unsupported | unrecognized | headerMismatch | headerPacket | datagram | frameMismatch
  | packet => exact .inr ⟨_, rfl⟩

/-- Settles O35. -/
theorem stepEmitsAtMostOneEvent : Obligations.StepEmitsAtMostOneEvent := by
  intro s t hstep
  rcases effect_of_step hstep with ⟨-, rfl⟩ | ⟨inp, rest, i, -, -, heffect⟩
  · exact .inl rfl
  · exact heffect.emits_at_most_one

/-- Under R27 every input has an instruction, and its meaning completes because its row applies. -/
theorem consume_safe_of_inv (hinv : s.Inv) (inp : Input) : Safe (consume inp s) := by
  obtain ⟨i, hdecode⟩ := everyInputHasAnInstruction s inp hinv
  obtain ⟨hcompletes, -⟩ := meaningsCompleteWhereTheirRowApplies i s
  rw [consume_of_decode hdecode]
  exact hcompletes (enabledAt_of_decode hdecode)

/-- Settles O43: with an input waiting it is consumed, with none the block waits. -/
theorem noInputStopsTheBlock : Obligations.NoInputStopsTheBlock := by
  intro s hinv
  cases hinput : s.input with
  | nil => exact ⟨s, step_of_nil hinput⟩
  | cons inp rest =>
    rw [step_of_cons hinput]
    exact consume_safe_of_inv (s := { s with input := rest }) hinv inp

/-! ## Feeding in chunks -/

/-- A feed that goes on consumes its first input and feeds the others. -/
theorem feed_cons_eq_next {xs : List Input} :
    feed (inp :: xs) s = .next t ↔ ∃ u, consume inp s = .next u ∧ feed xs u = .next t := by
  rw [feed_cons, andThen_eq_next]

/-- A feed is a fold, so it divides where its list does (R73). -/
theorem feed_append (xs ys : List Input) (s : State) : feed (xs ++ ys) s = andThen (feed xs s) (feed ys) := by
  induction xs generalizing s with
  | nil => rfl
  | cons inp xs ih =>
    rw [List.cons_append, feed_cons, feed_cons]
    cases consume inp s with
    | next u => exact ih u
    | fault r => rfl
    | refused r => rfl

theorem effect_of_consume (h : consume inp s = .next t) : ∃ i, Effect s i t := by
  obtain ⟨i, -, hexec⟩ := consume_eq_next.mp h
  exact ⟨i, effect_of_exec hexec⟩

theorem Effect.extends_events (h : Effect s i t) : s.events <+: t.events := by
  rcases h.emits_at_most_one with heq | ⟨e, heq⟩
  · rw [heq]
  · exact ⟨[e], heq.symm⟩

theorem feed_extends_events {xs : List Input} (h : feed xs s = .next t) : s.events <+: t.events := by
  induction xs generalizing s with
  | nil => cases h; exact ⟨[], List.append_nil _⟩
  | cons inp xs ih =>
    obtain ⟨u, hconsume, hfeed⟩ := feed_cons_eq_next.mp h
    obtain ⟨i, heffect⟩ := effect_of_consume hconsume
    exact heffect.extends_events.trans (ih hfeed)

/-- Settles O49. -/
theorem feedIsIndependentOfChunks : Obligations.FeedIsIndependentOfChunks := by
  refine ⟨feed_append, fun u s t hfeed => ?_⟩
  obtain ⟨es, hes⟩ := feed_extends_events hfeed
  exact ⟨es, hes.symm⟩

/-! ## Feeding as running the machine -/

/-- Consuming an input reads and writes nothing of the queue, so with more inputs put before the queue it is a
step of the machine that leaves those inputs waiting. -/
theorem step_of_consume (h : consume inp s = .next t) (xs : List Input) :
    step { s with input := inp :: (xs ++ s.input) } = .next { t with input := xs ++ t.input } := by
  obtain ⟨i, heffect⟩ := effect_of_consume h
  rw [step_of_cons rfl, heffect.input_eq]
  exact consume_withInput (s := s) _ h

/-- Inputs put before the queue and then stepped through are fed (R67). -/
theorem run_of_feed {xs : List Input} (h : feed xs s = .next t) :
    core.run xs.length { s with input := xs ++ s.input } = .next t := by
  induction xs generalizing s with
  | nil => exact h
  | cons inp xs ih =>
    obtain ⟨u, hconsume, hfeed⟩ := feed_cons_eq_next.mp h
    exact (run_succ_of_next (step_of_consume hconsume xs)).trans (ih hfeed)

/-- Settles O50, for the state whose queue is the later inputs. -/
theorem runningTheStepsIsFeeding : Obligations.RunningTheStepsIsFeeding :=
  fun _ _ _ _ hfeed => run_of_feed hfeed

/-! ## Runs of illegal and of discarded bytes -/

@[simp] theorem chunk_nil : chunk [] = [] := rfl

@[simp] theorem chunk_cons (b : Byte) (bs : List Byte) : chunk (b :: bs) = .byte b :: chunk bs := rfl

/-- R70, as the consumption of the byte. -/
theorem consume_illegal {b : Byte} (hb : byteClass b = .illegal) (s : State) :
    consume (.byte b) s = .next (s.emit (.error ⟨1, b, 0, 0⟩)).toInit :=
  consume_of_exec (i := .illegal b) (byteClass_eq_illegal.mp hb) rfl rfl

/-- From `INIT` a run of illegal bytes, which may be empty, only emits. -/
theorem feed_illegal_toInit {bs : List Byte} (hbs : ∀ b ∈ bs, byteClass b = .illegal) (s : State) :
    feed (chunk bs) s.toInit =
      .next { s.toInit with events := s.events ++ bs.map fun b => .error ⟨1, b, 0, 0⟩ } := by
  induction bs generalizing s with
  | nil => simp [State.toInit]
  | cons b bs ih =>
    obtain ⟨hb, hrest⟩ := List.forall_mem_cons.mp hbs
    have hnext : consume (.byte b) s.toInit = .next (s.emit (.error ⟨1, b, 0, 0⟩)).toInit :=
      consume_illegal hb s.toInit
    rw [chunk_cons, feed_cons_of_consume hnext, ih hrest, State.emit_events, List.append_assoc]
    rfl

/-- Settles O55: the first byte leads to `INIT` from any state, and the others keep it there. -/
theorem everyIllegalByteIsOneFramingError : Obligations.EveryIllegalByteIsOneFramingError := by
  intro bs s hne hbs
  cases bs with
  | nil => exact absurd rfl hne
  | cons b bs =>
    obtain ⟨hb, hrest⟩ := List.forall_mem_cons.mp hbs
    rw [chunk_cons, feed_cons_of_consume (consume_illegal hb s), feed_illegal_toInit hrest,
      State.emit_events, List.append_assoc]
    rfl

/-- Settles O56: each byte is discarded, so the next one finds the same state. -/
theorem dataOutsidePacketsIsSkipped : Obligations.DataOutsidePacketsIsSkipped := by
  intro bs s hst
  induction bs with
  | nil => rfl
  | cons b bs ih =>
    rw [dataInputs_cons, feed_cons_of_consume (consume_data_of_waitSync hst (byteClass_dataByte b))]
    exact ih

end Sys2Proof.Machine
end

section
/-! Header-type detection (R76 to R82): the rows that collect a header byte or act on the version byte, and that
the four bytes before the version byte have no influence. -/

namespace Sys2Proof.Machine

variable {s t : State}

/-! ## The rows of detection -/

/-- Settles O8. -/
theorem detectCollectsHeaderBytes : Obligations.DetectCollectsHeaderBytes := by
  intro s b hst hlen
  have hroom : s.buf.length < 4 := Nat.lt_succ_of_le hlen
  exact ⟨decode_eq_of_enabled rfl rfl (dataDetect_enabled.mpr ⟨hst, hroom⟩),
    execDataDetect_eq_next.mpr ⟨⟨hst, hroom⟩, rfl⟩⟩

/-- Settles O9: both rows apply at the fifth byte, and each byte is the encoding of its row. -/
theorem acceptedVersionsSelectTheHeader : Obligations.AcceptedVersionsSelectTheHeader :=
  fun _ hst hlen =>
    ⟨decode_encode .verV1 rfl _ (verV1_enabled.mpr ⟨hst, hlen⟩), execVerV1_eq_next.mpr ⟨⟨hst, hlen⟩, rfl⟩,
      decode_encode .verV2 rfl _ (verV2_enabled.mpr ⟨hst, hlen⟩), execVerV2_eq_next.mpr ⟨⟨hst, hlen⟩, rfl⟩⟩

/-- Settles O10: the row of 0x30 fixes its byte, and the three exclusions are the operand values that VER.OTHER
admits. -/
theorem otherVersionsRaiseTheirError : Obligations.OtherVersionsRaiseTheirError := by
  intro s hst hlen
  refine ⟨decode_encode .verUnsup rfl _ (verUnsup_enabled.mpr ⟨hst, hlen⟩),
    execVerUnsup_eq_next.mpr ⟨⟨hst, hlen⟩, rfl⟩, fun v hv1 hv2 hunsup => ⟨?_, ?_⟩⟩
  · exact decode_eq_of_enabled (verOther_wellFormed.mpr ⟨hv1, hv2, hunsup⟩) rfl
      (verOther_enabled.mpr ⟨hst, hlen⟩)
  · exact execVerOther_eq_next.mpr ⟨⟨hst, hlen⟩, rfl⟩

/-! ## The bytes before the version byte -/

/-- The decoder reads how many bytes are buffered, not which (R71). -/
theorem position_withBuf {other : List Septet} (hlen : other.length = s.buf.length) :
    ({ s with buf := other } : State).position = s.position := by
  simp [State.position, hlen]

/-- Every row that completes during detection appends a byte without reading the others, or clears the buffer
(R82). -/
theorem exec_withBuf_of_detectHeaderType {i : Instr} {other : List Septet} (hst : s.st = .detectHeaderType)
    (hlen : other.length = s.buf.length) (h : exec i s = .next t) :
    ∃ buf, exec i { s with buf := other } = .next { t with buf := buf } ∧ buf.length = t.buf.length := by
  cases effect_of_exec h with
  | sync | illegal | reset => exact ⟨[], rfl, rfl⟩
  | collectDetect b _ hl =>
    exact ⟨other ++ [b], execDataDetect_eq_next.mpr ⟨⟨hst, hlen ▸ hl⟩, rfl⟩, by simp [hlen]⟩
  | version1 _ hl =>
    exact ⟨other ++ [0x10], execVerV1_eq_next.mpr ⟨⟨hst, hlen.trans hl⟩, rfl⟩, by simp [hlen]⟩
  | version2 _ hl =>
    exact ⟨other ++ [0x20], execVerV2_eq_next.mpr ⟨⟨hst, hlen.trans hl⟩, rfl⟩, by simp [hlen]⟩
  | unsupported _ hl => exact ⟨[], execVerUnsup_eq_next.mpr ⟨⟨hst, hlen.trans hl⟩, rfl⟩, rfl⟩
  | unrecognized v _ hl => exact ⟨[], execVerOther_eq_next.mpr ⟨⟨hst, hlen.trans hl⟩, rfl⟩, rfl⟩
  | discard _ hs | collectHeader1 _ hs | collectHeader2 _ hs | collectFrames _ _ hs | headerMismatch _ hs
  | headerPacket _ hs | headerHeld _ hs | datagram _ hs | frameMismatch _ _ _ hs | packet _ _ hs =>
    simp [hst] at hs

/-- Settles O11: with the same position the same instruction is decoded, and during detection it does the same. -/
theorem detectionIgnoresEarlierHeaderBytes : Obligations.DetectionIgnoresEarlierHeaderBytes := by
  intro s t other hst hlen hstep
  rcases step_eq_next hstep with ⟨hinput, rfl⟩ | ⟨inp, rest, i, hinput, hdecode, hexec⟩
  · exact ⟨{ t with buf := other }, step_of_nil hinput, rfl, rfl, rfl, rfl, hlen⟩
  · have hdecode' : decode ({ s with buf := other } : State).position inp = .instr i :=
      (position_withBuf hlen).symm ▸ hdecode
    obtain ⟨buf, hother, hbuf⟩ :=
      exec_withBuf_of_detectHeaderType (s := { s with input := rest }) hst hlen hexec
    have hstep' : step { s with buf := other } = exec i { s with buf := other, input := rest } :=
      stepRunsTheDecodedInstruction { s with buf := other } inp rest i hinput hdecode'
    exact ⟨{ t with buf := buf }, hstep'.trans hother, rfl, rfl, rfl, rfl, hbuf⟩

end Sys2Proof.Machine
end

section
/-! The parameter ADDR_COMBINE (R85, R129): every operation takes states that agree in all but the parameter and the
fields `comb` computes to states that agree so, and the decoder reads none of these fields. -/

namespace Sys2Proof.Machine

variable {s t u v s' : State} {d d' : Header}

/-! ## The header check, case by case -/

/-- R89. -/
theorem checkHeader_of_mismatch (hck : entry s.buf 8 ≠ headerCk s.buf) :
    s.checkHeader = s.raise .headerChecksumMismatch (dataByte (entry s.buf 8)) (headerCk s.buf) 0 := by
  rcases checkHeader_cases s with ⟨-, h⟩ | ⟨heq, -⟩ | ⟨heq, -⟩
  · exact h
  · exact absurd heq hck
  · exact absurd heq hck

/-- R88. -/
theorem checkHeader_of_noFrames (hck : entry s.buf 8 = headerCk s.buf) (hcount : entry s.buf 7 = 0) :
    s.checkHeader = (s.emit (.packet (headerRecord s.addrCombine s.buf) [])).toInit := by
  rcases checkHeader_cases s with ⟨hne, -⟩ | ⟨-, -, h⟩ | ⟨-, hframes, -⟩
  · exact absurd hck hne
  · exact h
  · exact absurd (congrArg dataByte hcount) hframes

/-- R87. -/
theorem checkHeader_of_frames (hck : entry s.buf 8 = headerCk s.buf) (hcount : entry s.buf 7 ≠ 0) :
    s.checkHeader = s.hold (headerRecord s.addrCombine s.buf) := by
  rcases checkHeader_cases s with ⟨hne, -⟩ | ⟨-, hzero, -⟩ | ⟨-, -, h⟩
  · exact absurd hck hne
  · have hpayload : payload (dataByte (entry s.buf 7)) = payload (dataByte 0) := congrArg payload hzero
    exact absurd (by simpa using hpayload) hcount
  · exact h

/-! ## What the agreement fixes -/

/-- The frame count is not computed by `comb` (R24). -/
theorem frameCount_eq_of_withoutCombined (h : d.withoutCombined = d'.withoutCombined) :
    d.frameCount = d'.frameCount := by
  have hcount := congrArg Header.frameCount h
  exact hcount

/-- Only the combined fields of a header record depend on the parameter (R24, R85). -/
theorem headerRecord_withoutCombined (c c' : AddrCombine) (hb : List Septet) :
    (headerRecord c hb).withoutCombined = (headerRecord c' hb).withoutCombined := rfl

theorem packet_withoutCombined (h : d.withoutCombined = d'.withoutCombined) (frames : List DataFrame) :
    (Event.packet d frames).withoutCombined = (Event.packet d' frames).withoutCombined :=
  congrArg (Event.packet · frames) h

namespace State.AgreeButCombined

/-- The decoder reads none of the fields in which the states may differ (R71). -/
theorem position_eq (h : s.AgreeButCombined t) : s.position = t.position := by
  have hdeclared := congrArg (Option.map fun d : Header => d.frameCount.toNat) h.pend
  rw [Option.map_map, Option.map_map] at hdeclared
  rw [State.position, State.position, h.st, h.buf]
  exact congrArg (Position.mk t.st t.buf.length) hdeclared

/-- A header that is pending in one state has its counterpart in the other. -/
theorem pend_some (h : s.AgreeButCombined t) (hpend : s.pend = some d) :
    ∃ d', t.pend = some d' ∧ d.withoutCombined = d'.withoutCombined := by
  have hmap := h.pend
  rw [hpend, Option.map_some] at hmap
  obtain ⟨d', htpend, hd⟩ := Option.map_eq_some_iff.mp hmap.symm
  exact ⟨d', htpend, hd.symm⟩

/-! ## The operations keep the agreement -/

theorem withInput (h : s.AgreeButCombined t) (l : List Input) :
    ({ s with input := l } : State).AgreeButCombined { t with input := l } :=
  ⟨h.st, h.buf, rfl, h.pend, h.events⟩

theorem append (h : s.AgreeButCombined t) (b : Septet) : (s.append b).AgreeButCombined (t.append b) :=
  ⟨h.st, congrArg (· ++ [b]) h.buf, h.input, h.pend, h.events⟩

theorem goTo (h : s.AgreeButCombined t) (f : FsmState) : (s.goTo f).AgreeButCombined (t.goTo f) :=
  ⟨rfl, h.buf, h.input, h.pend, h.events⟩

theorem toInit (h : s.AgreeButCombined t) : s.toInit.AgreeButCombined t.toInit :=
  ⟨rfl, rfl, h.input, rfl, h.events⟩

theorem resync (h : s.AgreeButCombined t) : s.resync.AgreeButCombined t.resync :=
  ⟨rfl, rfl, h.input, rfl, h.events⟩

theorem hold (h : s.AgreeButCombined t) (hd : d.withoutCombined = d'.withoutCombined) :
    (s.hold d).AgreeButCombined (t.hold d') :=
  ⟨rfl, rfl, h.input, congrArg some hd, h.events⟩

theorem emit (h : s.AgreeButCombined t) {e e' : Event} (he : e.withoutCombined = e'.withoutCombined) :
    (s.emit e).AgreeButCombined (t.emit e') :=
  ⟨h.st, h.buf, h.input, h.pend, by simp [h.events, he]⟩

theorem raise (h : s.AgreeButCombined t) (k : ErrorKind) (byte : Byte) (expected index : Septet) :
    (s.raise k byte expected index).AgreeButCombined (t.raise k byte expected index) :=
  (h.emit rfl).toInit

theorem datagramFault (h : s.AgreeButCombined t) : s.datagramFault.AgreeButCombined t.datagramFault := by
  rw [State.datagramFault, State.datagramFault, h.buf]
  exact (h.emit rfl).toInit

theorem frameFault (h : s.AgreeButCombined t) (k : Nat) : (s.frameFault k).AgreeButCombined (t.frameFault k) := by
  simp only [State.frameFault, h.buf]
  exact h.raise _ _ _ _

/-- The checksum test and the frame count are of the buffered bytes, whatever the parameter (R84, R86). -/
theorem checkHeader (h : s.AgreeButCombined t) : s.checkHeader.AgreeButCombined t.checkHeader := by
  have hrecord := headerRecord_withoutCombined s.addrCombine t.addrCombine t.buf
  by_cases hck : entry t.buf 8 = headerCk t.buf
  · by_cases hcount : entry t.buf 7 = 0
    · rw [checkHeader_of_noFrames hck hcount, checkHeader_of_noFrames (h.buf ▸ hck) (h.buf ▸ hcount), h.buf]
      exact (h.emit (packet_withoutCombined hrecord [])).toInit
    · rw [checkHeader_of_frames hck hcount, checkHeader_of_frames (h.buf ▸ hck) (h.buf ▸ hcount), h.buf]
      exact h.hold hrecord
  · rw [checkHeader_of_mismatch hck, checkHeader_of_mismatch (h.buf ▸ hck), h.buf]
    exact h.raise _ _ _ _

/-- The count check and the frame checks are of the buffered bytes and the frame count (R96, R98). -/
theorem closeGroup (h : s.AgreeButCombined t) (hd : d.withoutCombined = d'.withoutCombined) :
    (s.closeGroup d).AgreeButCombined (t.closeGroup d') := by
  simp only [State.closeGroup, h.buf, frameCount_eq_of_withoutCombined hd]
  split
  · exact h.raise _ _ _ _
  · split
    · exact h.frameFault _
    · exact (h.emit (packet_withoutCombined hd _)).toInit

/-! ## The meanings and the step keep the agreement -/

/-- A guarded meaning completes in both states or in neither. -/
theorem inPlace_next (h : s.AgreeButCombined t) (huv : u.AgreeButCombined v) {i : Instr}
    (hnext : s.inPlace i u = .next s') : ∃ t', t.inPlace i v = .next t' ∧ s'.AgreeButCombined t' := by
  obtain ⟨henabled, rfl⟩ := inPlace_eq_next.mp hnext
  exact ⟨v, inPlace_of_enabled (h.position_eq ▸ henabled), huv⟩

theorem execFramesDone_next (h : s.AgreeButCombined t) {c : Septet} (hexec : execFramesDone c s = .next s') :
    ∃ t', execFramesDone c t = .next t' ∧ s'.AgreeButCombined t' := by
  obtain ⟨hst, d, hpend, hlen, rfl⟩ := execFramesDone_eq_next.mp hexec
  obtain ⟨d', htpend, hd⟩ := h.pend_some hpend
  have htlen : t.buf.length + 1 = 6 * d'.frameCount.toNat := by
    rw [← h.buf, ← frameCount_eq_of_withoutCombined hd, hlen]
  exact ⟨_, execFramesDone_eq_next.mpr ⟨h.st ▸ hst, d', htpend, htlen, rfl⟩, (h.append c).closeGroup hd⟩

/-- Each meaning is its operations in turn, so it keeps the agreement as they do. -/
theorem exec_next (h : s.AgreeButCombined t) {i : Instr} (hexec : exec i s = .next s') :
    ∃ t', exec i t = .next t' ∧ s'.AgreeButCombined t' := by
  cases i with
  | sync => cases hexec; exact ⟨_, rfl, h.resync⟩
  | illegal b => cases hexec; exact ⟨_, rfl, h.raise _ _ _ _⟩
  | reset => cases hexec; exact ⟨_, rfl, h.toInit⟩
  | dataWaitSync b => exact h.inPlace_next h hexec
  | dataDetect b | dataHdr1 b | dataHdr2 b | dataFrames b => exact h.inPlace_next (h.append b) hexec
  | verV1 | verV2 => exact h.inPlace_next ((h.append _).goTo _) hexec
  | verUnsup | verOther v => exact h.inPlace_next ((h.append _).raise _ _ _ _) hexec
  | hdr1Check c => exact h.inPlace_next (h.append c).checkHeader hexec
  | hdr2Done b => exact h.inPlace_next (h.append b).datagramFault hexec
  | framesDone c => exact h.execFramesDone_next hexec

end State.AgreeButCombined

/-- Settles O48: with equal positions the same instruction is decoded from the same input, and its meaning keeps the
agreement. -/
theorem transitionsAreIndependentOfTheParameter : Obligations.TransitionsAreIndependentOfTheParameter := by
  intro s t s' h hstep
  rcases step_eq_next hstep with ⟨hnil, rfl⟩ | ⟨inp, rest, i, hcons, hdecode, hexec⟩
  · exact ⟨t, step_of_nil (h.input ▸ hnil), h⟩
  · rw [stepRunsTheDecodedInstruction t inp rest i (h.input ▸ hcons) (h.position_eq ▸ hdecode)]
    exact (h.withInput rest).exec_next hexec

end Sys2Proof.Machine
end

section
/-! The header parser (R83 to R93): the rows that collect a header byte, the check of a protocol-1.0 header in integers,
the datagram fault, and the two formulas of the 16-bit combination. -/

namespace Sys2Proof.Machine

variable {s : State}

/-! ## The collecting rows and the datagram fault -/

/-- Settles O12. -/
theorem header1CollectsHeaderBytes : Obligations.Header1CollectsHeaderBytes := by
  intro s b hst hlen
  have hroom : s.buf.length < 8 := Nat.lt_succ_of_le hlen
  exact ⟨decode_eq_of_enabled rfl rfl (dataHdr1_enabled.mpr ⟨hst, hroom⟩),
    execDataHdr1_eq_next.mpr ⟨⟨hst, hroom⟩, rfl⟩⟩

/-- Settles O17. -/
theorem header2CollectsHeaderBytes : Obligations.Header2CollectsHeaderBytes := by
  intro s b hst hlen
  have hroom : s.buf.length < 14 := Nat.lt_succ_of_le hlen
  exact ⟨decode_eq_of_enabled rfl rfl (dataHdr2_enabled.mpr ⟨hst, hroom⟩),
    execDataHdr2_eq_next.mpr ⟨⟨hst, hroom⟩, rfl⟩⟩

/-- Settles O18: the row reads only how many bytes are buffered. -/
theorem fifteenthByteIsADatagramFault : Obligations.FifteenthByteIsADatagramFault :=
  fun _ _ hst hlen =>
    ⟨decode_eq_of_enabled rfl rfl (hdr2Done_enabled.mpr ⟨hst, hlen⟩),
      execHdr2Done_eq_next.mpr ⟨⟨hst, hlen⟩, rfl⟩⟩

/-! ## HDR1.CHECK, case by case -/

theorem exec_hdr1Check {c : Septet} (hst : s.st = .decodeHeader1) (hlen : s.buf.length = 8) :
    exec (.hdr1Check c) s = .next (s.append c).checkHeader :=
  execHdr1Check_eq_next.mpr ⟨⟨hst, hlen⟩, rfl⟩

/-- The test of R86 with the ninth byte just appended. -/
theorem entry_eq_headerCk_append {g : List Septet} {c : Septet} (hlen : g.length = 8) :
    entry (g ++ [c]) 8 = headerCk (g ++ [c]) ↔ c = ck7 g := by
  rw [entry_append_last hlen, headerCk_append hlen]

/-- The 7-bit sum of a sequence is its integer sum modulo 128 (R13). -/
theorem ofNat_septetSum (l : List Septet) : BitVec.ofNat 7 (septetSum l) = l.sum := by
  induction l with
  | nil => rfl
  | cons b l ih => rw [septetSum_cons, BitVec.ofNat_add, ih, List.sum_cons, BitVec.ofNat_toNat, BitVec.setWidth_eq]

/-- R13 in 7-bit arithmetic. -/
theorem ck7_eq_not_sum (l : List Septet) : ck7 l = ~~~ l.sum := by
  rw [ck7, ofNat_septetSum]

/-- R13's validity test for the nine bytes of a header (R86). -/
theorem eq_ck7_header_iff {b0 b1 b2 b3 b4 b5 b6 b7 c : Septet} :
    c = ck7 [b0, b1, b2, b3, b4, b5, b6, b7] ↔
      (b0.toNat + b1.toNat + b2.toNat + b3.toNat + b4.toNat + b5.toNat + b6.toNat + b7.toNat + c.toNat) % 128
        = 127 := by
  rw [eq_ck7_iff]
  simp [add_assoc]

/-- Settles O14: the sum of 127 is R13's validity test, and the count is not 0. -/
theorem validHeaderIsHeldForItsFrames : Obligations.ValidHeaderIsHeldForItsFrames := by
  intro s b0 b1 b2 b3 b4 b5 b6 b7 c hst hbuf hsum hcount
  have hck : c = ck7 s.buf := hbuf ▸ eq_ck7_header_iff.mpr hsum
  have hlen : s.buf.length = 8 := by rw [hbuf]; rfl
  have hframes : entry (s.append c).buf 7 ≠ 0 := by rw [State.append_buf, hbuf]; exact hcount
  rw [exec_hdr1Check hst hlen, checkHeader_of_frames ((entry_eq_headerCk_append hlen).mpr hck) hframes,
    State.append_buf, hbuf]
  rfl

/-- Settles O15: the sum of 127 is R13's validity test, and the count is 0. -/
theorem validHeaderWithoutFramesIsAPacket : Obligations.ValidHeaderWithoutFramesIsAPacket := by
  intro s b0 b1 b2 b3 b4 b5 b6 c hst hbuf hsum
  have hck : c = ck7 s.buf := hbuf ▸ eq_ck7_header_iff.mpr hsum
  have hlen : s.buf.length = 8 := by rw [hbuf]; rfl
  have hnone : entry (s.append c).buf 7 = 0 := by rw [State.append_buf, hbuf]; rfl
  rw [exec_hdr1Check hst hlen, checkHeader_of_noFrames ((entry_eq_headerCk_append hlen).mpr hck) hnone,
    State.append_buf, hbuf]
  rfl

/-- Settles O16: the inverted 7-bit sum is the checksum of R13. -/
theorem headerChecksumMismatchIsReported : Obligations.HeaderChecksumMismatchIsReported := by
  intro s b0 b1 b2 b3 b4 b5 b6 b7 c hst hbuf hne
  have hck : ck7 s.buf = ~~~ (b0 + b1 + b2 + b3 + b4 + b5 + b6 + b7) := by
    rw [hbuf, ck7_eq_not_sum]
    simp [add_assoc]
  have hlen : s.buf.length = 8 := by rw [hbuf]; rfl
  have hmismatch : ¬ c = ck7 s.buf := hck ▸ hne
  rw [exec_hdr1Check hst hlen, checkHeader_of_mismatch (mt (entry_eq_headerCk_append hlen).mp hmismatch),
    State.append_buf, entry_append_last hlen, headerCk_append hlen, hck]
  rfl

/-! ## The header with a changed checksum byte -/

/-- BADCK with a change other than 0 fails the test of R86. -/
theorem wire_badCk_ne {f : HeaderFields} {d : Septet} (hd : d ≠ 0) :
    entry (f.wire d) 8 ≠ headerCk (f.wire d) := by
  rw [HeaderFields.wire, Ne, entry_eq_headerCk_append rfl, add_eq_left]
  exact hd

/-- Settles O52: the header is checked whatever its checksum byte, and the changed one fails. -/
theorem corruptedHeaderChecksumIsOneError : Obligations.CorruptedHeaderChecksumIsOneError := by
  intro f d s hd
  have hmismatch := checkHeader_of_mismatch (s := s.inHeader .decodeHeader1 (f.wire d)) (wire_badCk_ne hd)
  rw [← List.append_nil (dataInputs _), feed_header1, hmismatch]
  rfl

/-! ## The 16-bit combination -/

/-- R85 under PRECEDENCE: the sum of two septets has 8 bits, so the shift loses none. -/
theorem comb_precedence_toNat (lo hi : Septet) :
    (comb .precedence lo hi).toNat = (lo.toNat + hi.toNat) * 256 := by
  have hlo := lo.isLt
  have hhi := hi.isLt
  simp only [comb, BitVec.toNat_shiftLeft, BitVec.toNat_add, BitVec.toNat_setWidth, Nat.shiftLeft_eq]
  omega

/-- R85 under LITTLE_ENDIAN: the two septets have no bit position in common. -/
theorem comb_littleEndian_toNat (lo hi : Septet) :
    (comb .littleEndian lo hi).toNat = lo.toNat + hi.toNat * 256 := by
  have hlo : lo.toNat < 2 ^ 8 := by omega
  have hhi := hi.isLt
  have hor : lo.toNat ||| hi.toNat <<< 8 = lo.toNat + hi.toNat * 256 := by
    rw [Nat.or_comm, ← Nat.shiftLeft_add_eq_or_of_lt hlo, Nat.shiftLeft_eq, Nat.add_comm]
  have hlow : (lo.setWidth 16).toNat = lo.toNat := by simp; omega
  have hhigh : (hi.setWidth 16 <<< 8).toNat = hi.toNat <<< 8 := by
    simp only [BitVec.toNat_shiftLeft, BitVec.toNat_setWidth, Nat.shiftLeft_eq]
    omega
  rw [comb, BitVec.toNat_or, hlow, hhigh, hor]

/-- Settles O24. -/
theorem combineFormulas : Obligations.CombineFormulas :=
  ⟨fun lo hi => ⟨comb_precedence_toNat lo hi, comb_littleEndian_toNat lo hi⟩, rfl⟩

end Sys2Proof.Machine
end

section
/-! The frame unpacker (R94 to R104): the row that collects a frame byte, the frame test and the data bytes in
integers, the bits 6:4 of the MSB-extension byte, and the group in which one checksum byte is changed. -/

namespace Sys2Proof.Machine

variable {s : State} {h : Header}

/-! ## The collecting row -/

/-- Settles O19: the row reads only how many bytes are buffered. -/
theorem framesAreCollectedToTheDeclaredCount : Obligations.FramesAreCollectedToTheDeclaredCount :=
  fun _ h _ hst hpend hroom =>
    ⟨decode_eq_of_enabled rfl rfl (dataFrames_enabled.mpr ⟨hst, h, hpend, hroom⟩),
      execDataFrames_eq_next.mpr ⟨⟨hst, h, hpend, hroom⟩, rfl⟩⟩

/-! ## The action on a complete group, case by case -/

theorem exec_framesDone {c : Septet} (hst : s.st = .decodeFrames) (hpend : s.pend = some h)
    (hlen : s.buf.length + 1 = 6 * h.frameCount.toNat) :
    exec (.framesDone c) s = .next ((s.append c).closeGroup h) :=
  execFramesDone_eq_next.mpr ⟨hst, h, hpend, hlen, rfl⟩

/-- R103. -/
theorem closeGroup_of_allGood (hlen : s.buf.length = 6 * h.frameCount.toNat)
    (hgood : ∀ k < h.frameCount.toNat, frameGood (frameAt s.buf k) = true) :
    s.closeGroup h = (s.emit (.packet h (dataFrames s.buf h.frameCount.toNat))).toInit := by
  have hnone := firstBad_eq_none.mpr hgood
  rcases closeGroup_cases s h with ⟨hne, -⟩ | ⟨-, k, hsome, -⟩ | ⟨-, -, heq⟩
  · exact absurd hlen hne
  · exact absurd (hnone.symm.trans hsome) (Option.some_ne_none k).symm
  · exact heq

/-- R113, for the lowest bad frame (R99). -/
theorem closeGroup_of_firstBad {k : Nat} (hlen : s.buf.length = 6 * h.frameCount.toNat)
    (hbad : firstBad s.buf h.frameCount.toNat = some k) : s.closeGroup h = s.frameFault k := by
  rcases closeGroup_cases s h with ⟨hne, -⟩ | ⟨-, j, hsome, heq⟩ | ⟨-, hnone, -⟩
  · exact absurd hlen hne
  · obtain rfl : k = j := Option.some.inj (hbad.symm.trans hsome)
    exact heq
  · exact absurd (hbad.symm.trans hnone) (Option.some_ne_none k)

/-! ## The frame test and the data bytes in integers -/

theorem frameGood_iff {f : WireFrame} : frameGood f = true ↔ f.checksum = frameCk f := beq_iff_eq

/-- The frame test (R98) is R13's validity test for the six bytes of the frame. -/
theorem frameGood_frameAt_iff {g : List Septet} {k : Nat} :
    frameGood (frameAt g k) = true ↔ GroupFrameGood g k := by
  rw [frameGood_iff, frameCk, eq_ck7_iff, GroupFrameGood]
  simp [frameAt, entry, groupByte, add_assoc]

/-- R100 in integers: the septet and the shifted extension bit have no bit position in common. -/
theorem reconByte_toNat (x m : Septet) (i : Nat) :
    (reconByte x m i).toNat = x.toNat + 128 * (m.toNat / 2 ^ i % 2) := by
  have hx : x.toNat < 2 ^ 7 := x.isLt
  have hor : x.toNat ||| (m.toNat / 2 ^ i % 2) <<< 7 = x.toNat + 128 * (m.toNat / 2 ^ i % 2) := by
    rw [Nat.or_comm, ← Nat.shiftLeft_add_eq_or_of_lt hx, Nat.shiftLeft_eq]
    omega
  have hlow : (x.setWidth 8).toNat = x.toNat := dataByte_toNat x
  have hbit : ((m.setWidth 8 >>> i) &&& 1).toNat = m.toNat / 2 ^ i % 2 := by
    have hm : (m.setWidth 8).toNat = m.toNat := dataByte_toNat m
    rw [BitVec.toNat_and, BitVec.toNat_ushiftRight, hm, Nat.shiftRight_eq_div_pow]
    exact Nat.and_one_is_mod _
  have hhigh : (((m.setWidth 8 >>> i) &&& 1) <<< 7).toNat = (m.toNat / 2 ^ i % 2) <<< 7 := by
    rw [BitVec.toNat_shiftLeft, hbit, Nat.shiftLeft_eq]
    omega
  rw [reconByte, BitVec.toNat_or, hlow, hhigh, hor]

/-- Settles O20: the frames are those `dataFrames` reads off the group. -/
theorem goodFrameGroupIsEmittedAsPacket : Obligations.GoodFrameGroupIsEmittedAsPacket := by
  intro s h b hst hpend hlen hgood
  have hfull : (s.append b).buf.length = 6 * h.frameCount.toNat := by simpa using hlen
  have hpacket := closeGroup_of_allGood hfull fun k hk => frameGood_frameAt_iff.mpr (hgood k hk)
  refine ⟨dataFrames (s.buf ++ [b]) h.frameCount.toNat, ?_, dataFrames_length _ _, fun k hk =>
    ⟨recon (frameAt (s.buf ++ [b]) k), dataFrames_getElem? hk, ?_, ?_, ?_, ?_⟩⟩
  · rw [exec_framesDone hst hpend hlen, hpacket]
    rfl
  all_goals exact reconByte_toNat _ _ _

/-! ## The MSB-extension byte -/

/-- A data byte reads one bit of the MSB-extension byte (R100). -/
theorem reconByte_congr {m m' : Septet} {i : Nat} (hi : i < 7) (hbit : m.getLsbD i = m'.getLsbD i)
    (x : Septet) : reconByte x m i = reconByte x m' i := by
  apply BitVec.eq_of_getLsbD_eq
  intro j hj
  rw [getLsbD_reconByte _ _ hi hj, getLsbD_reconByte _ _ hi hj, hbit]

/-- The frame checksum in 7-bit arithmetic (R13, R98). -/
theorem frameCk_eq_not_sum (f : WireFrame) : frameCk f = ~~~ (f.s0 + f.s1 + f.s2 + f.s3 + f.msb) := by
  simp [frameCk, ck7_eq_not_sum, add_assoc]

theorem frameCk_withMsb_inj {f : WireFrame} {m : Septet} :
    frameCk { f with msb := m } = frameCk f ↔ m = f.msb := by
  rw [frameCk_eq_not_sum, frameCk_eq_not_sum, BitVec.not_inj, add_right_inj]

/-- Settles O25: the data bytes read bits 3:0 only, and the checksum reads the whole byte. -/
theorem msbHighBitsCountOnlyInTheChecksum : Obligations.MsbHighBitsCountOnlyInTheChecksum := by
  intro f m hlow
  refine ⟨?_, fun _ => frameGood_iff, mt frameCk_withMsb_inj.mp⟩
  have hdata {i : Nat} (hi : i < 4) (x : Septet) : reconByte x m i = reconByte x f.msb i :=
    reconByte_congr (by omega) (hlow i hi) x
  simp [recon, hdata]

/-- Settles O26. -/
theorem frameMacroIsInverseOfReconstruction : Obligations.FrameMacroIsInverseOfReconstruction :=
  fun d => ⟨frameGood_frameOf d, recon_frameOf d⟩

/-! ## The frame with a changed checksum byte -/

/-- BADCK with a change other than 0 fails the test of R98 for a frame that passed it. -/
theorem frameGood_badCk {f : WireFrame} {d : Septet} (hgood : frameGood f = true) (hd : d ≠ 0) :
    frameGood (f.badCk d) = false := by
  have hck : frameCk (f.badCk d) = f.checksum := (frameGood_iff.mp hgood).symm
  rw [← Bool.not_eq_true, frameGood_iff, hck, WireFrame.badCk, add_eq_left]
  exact hd

/-- The frames of a group of FRAME forms with BADCK after frame `k` (R65, R97). -/
theorem frameAt_badCk {frames : List DataFrame} {j : Nat} (k : Nat) (d : Septet) (hj : j < frames.length) :
    frameAt (groupBytes ((frames.map frameOf).modify k (WireFrame.badCk d))) j =
      if k = j then (frameOf frames[j]).badCk d else frameOf frames[j] := by
  rw [frameAt_groupBytes _ j (by simpa using hj), List.getElem_modify, List.getElem_map]

/-- In a group of FRAME forms the frame after which BADCK stands is the lowest bad one. -/
theorem firstBad_badCk {frames : List DataFrame} {k : Nat} {d : Septet} (hk : k < frames.length)
    (hd : d ≠ 0) :
    firstBad (groupBytes ((frames.map frameOf).modify k (WireFrame.badCk d))) frames.length = some k := by
  refine firstBad_eq_some.mpr ⟨hk, ?_, fun j hj => ?_⟩
  · rw [frameAt_badCk k d hk, if_pos rfl]
    exact frameGood_badCk (frameGood_frameOf _) hd
  · rw [frameAt_badCk k d (hj.trans hk), if_neg hj.ne']
    exact frameGood_frameOf _

/-- R113 for a group of FRAME forms with BADCK after frame `k`. -/
theorem closeGroup_badCk {frames : List DataFrame} {k : Nat} {d : Septet}
    (hcount : frames.length = h.frameCount.toNat) (hk : k < frames.length) (hd : d ≠ 0)
    (hbuf : s.buf = groupBytes ((frames.map frameOf).modify k (WireFrame.badCk d))) :
    s.closeGroup h = s.raise .frameChecksumMismatch (dataByte ((frameOf frames[k]).checksum + d))
      (frameOf frames[k]).checksum (BitVec.ofNat 7 k) := by
  have hlen : s.buf.length = 6 * h.frameCount.toNat := by simp [hbuf, hcount]
  have hframe : frameAt s.buf k = (frameOf frames[k]).badCk d := by
    rw [hbuf, frameAt_badCk k d hk, if_pos rfl]
  have hbad : firstBad s.buf h.frameCount.toNat = some k := by
    rw [hbuf, ← hcount]
    exact firstBad_badCk hk hd
  rw [closeGroup_of_firstBad hlen hbad, State.frameFault, hframe]
  rfl

/-- A header of the form HDR1 that declares frames, followed by as many frames, good or bad: the group is
closed at its last byte (R95). -/
theorem feed_streamInputs {f : HeaderFields} {fs : List WireFrame} (hcount : fs.length = f.n.toNat)
    (hne : fs ≠ []) (s : State) :
    feed (streamInputs f fs) s = .next (State.closeGroup
      { s.hold (headerRecord s.addrCombine f.wire) with buf := groupBytes fs }
      (headerRecord s.addrCombine f.wire)) := by
  have hn : f.n.toNat ≠ 0 := hcount ▸ (List.length_pos_iff.mpr hne).ne'
  have hheld : (s.inHeader .decodeHeader1 f.wire).checkHeader =
      s.hold (headerRecord s.addrCombine f.wire) := checkHeader_wire_of_frames rfl hn
  rw [streamInputs, dataInputs_append, feed_header1, hheld, ← List.append_nil (dataInputs (groupBytes _)),
    feed_frames (hcount.trans (dataByte_toNat f.n).symm) hne, feed_nil]

/-- Settles O53: the header is held, and the group is closed with the changed frame as its lowest bad one. -/
theorem corruptedFrameChecksumIsOneError : Obligations.CorruptedFrameChecksumIsOneError := by
  intro f frames k d x s hcount hx hd
  obtain ⟨hk, rfl⟩ := List.getElem?_eq_some_iff.mp hx
  have hlen : ((frames.map frameOf).modify k (WireFrame.badCk d)).length = frames.length := by simp
  have hne : (frames.map frameOf).modify k (WireFrame.badCk d) ≠ [] :=
    List.length_pos_iff.mp (hlen ▸ Nat.zero_lt_of_lt hk)
  rw [feed_streamInputs (hlen.trans hcount) hne,
    closeGroup_badCk (hcount.trans (dataByte_toNat f.n).symm) hk hd rfl]
  rfl

end Sys2Proof.Machine
end

section
/-! Exceptions (R105 to R117): which steps emit, how such a step ends, which error kinds it can report, and the
report of the lowest bad frame of a group. -/

namespace Sys2Proof.Machine

variable {s t : State} {i : Instr} {e : Event} {r : ErrorReport}

/-! ## The step that emits an event -/

/-- Every row that emits leaves through `State.toInit` (R104, R105); the others keep the event sequence. -/
theorem Effect.ends_in_init_of_emits (h : Effect s i t) (he : t.events = s.events ++ [e]) :
    t.st = .waitSync ∧ t.buf = [] ∧ t.pend = none := by
  cases h with
  | sync | reset | discard | collectDetect | collectHeader1 | collectHeader2 | collectFrames | version1
  | version2 | headerHeld => simp at he
  | illegal | unsupported | unrecognized | headerMismatch | headerPacket | datagram | frameMismatch
  | packet => exact ⟨rfl, rfl, rfl⟩

/-- A step that emits has consumed an input. -/
theorem effect_of_emitting_step (hstep : step s = .next t) (he : t.events = s.events ++ [e]) :
    ∃ rest i, Effect { s with input := rest } i t := by
  rcases effect_of_step hstep with ⟨-, rfl⟩ | ⟨-, rest, i, -, -, heffect⟩
  · exact absurd rfl (ne_of_emitted he)
  · exact ⟨rest, i, heffect⟩

/-- Settles O36. -/
theorem errorStepEndsInInit : Obligations.ErrorStepEndsInInit := by
  intro s t r hstep he
  obtain ⟨rest, i, heffect⟩ := effect_of_emitting_step hstep he
  exact heffect.ends_in_init_of_emits he

/-! ## The error kinds that are reported -/

theorem code_of_raise {k : ErrorKind} {byte : Byte} {expected index : Septet}
    (he : (s.raise k byte expected index).events = s.events ++ [.error r]) : r.code = k.code := by
  simp only [State.raise_events, List.append_cancel_left_eq, List.cons.injEq, Event.error.injEq] at he
  obtain ⟨rfl, -⟩ := he
  rfl

/-- The count check passes where FRAMES.DONE applies (R96, R112), and the datagram fault is an event of its own
kind (R64, R114). -/
theorem Effect.error_kind (h : Effect s i t) (he : t.events = s.events ++ [.error r]) :
    ∃ k : ErrorKind, r.code = k.code ∧ k ≠ .frameCountMismatch ∧ k ≠ .datagramNotImplemented := by
  cases h with
  | sync | reset | discard | collectDetect | collectHeader1 | collectHeader2 | collectFrames | version1
  | version2 | headerHeld => simp at he
  | headerPacket | datagram | packet => simp at he
  | illegal => exact ⟨.framingError, code_of_raise he, nofun, nofun⟩
  | unsupported => exact ⟨.unsupportedProtocolVersion, code_of_raise he, nofun, nofun⟩
  | unrecognized => exact ⟨.unrecognizedProtocolVersion, code_of_raise he, nofun, nofun⟩
  | headerMismatch => exact ⟨.headerChecksumMismatch, code_of_raise he, nofun, nofun⟩
  | frameMismatch => exact ⟨.frameChecksumMismatch, code_of_raise he, nofun, nofun⟩

/-- No error kind has code 0 (R63), and the codes 5 and 7 name one kind each (R107). -/
theorem ErrorKind.code_ne_unreported {k : ErrorKind} (hcount : k ≠ .frameCountMismatch)
    (hdatagram : k ≠ .datagramNotImplemented) : k.code ≠ 5 ∧ k.code ≠ 0 ∧ k.code ≠ 7 := by
  cases k with
  | frameCountMismatch => exact absurd rfl hcount
  | datagramNotImplemented => exact absurd rfl hdatagram
  | framingError | unsupportedProtocolVersion | unrecognizedProtocolVersion | headerChecksumMismatch
  | frameChecksumMismatch => decide

/-- Settles O22. -/
theorem frameCountMismatchIsNeverEmitted : Obligations.FrameCountMismatchIsNeverEmitted := by
  intro s t r hstep he
  obtain ⟨rest, i, heffect⟩ := effect_of_emitting_step hstep he
  obtain ⟨k, hcode, hcount, hdatagram⟩ := heffect.error_kind he
  rw [hcode]
  exact k.code_ne_unreported hcount hdatagram

/-! ## The end of a packet -/

/-- R121, as the consumption of the reset input. -/
theorem consume_reset (s : State) : consume .reset s = .next s.toInit :=
  consume_of_decode (i := .reset) rfl

/-- Of the rows that apply outside `WAIT_SYNC`, those that lead there emit, but for RESET (R115): collecting keeps
the FSM state, and restarting or accepting leads to another one. -/
theorem Effect.emits_of_packet_end (h : Effect s i t) (hfrom : s.st ≠ .waitSync) (hto : t.st = .waitSync) :
    i = .reset ∨ ∃ e, t.events = s.events ++ [e] := by
  cases h with
  | reset => exact .inl rfl
  | discard _ hst => exact absurd hst hfrom
  | collectDetect | collectHeader1 | collectHeader2 | collectFrames => exact absurd hto hfrom
  | sync | version1 | version2 | headerHeld => cases hto
  | illegal | unsupported | unrecognized | headerMismatch | headerPacket | datagram | frameMismatch
  | packet => exact .inr ⟨_, rfl⟩

/-- Settles O37: the two silent inputs have one row each, and any other input is not decoded as RESET. -/
theorem packetEndsSilentlyOnlyOnSyncOrReset : Obligations.PacketEndsSilentlyOnlyOnSyncOrReset := by
  intro s t inp rest hinput hstep
  rw [step_of_cons hinput] at hstep
  constructor
  · rintro (rfl | rfl)
    · rw [consume_reset] at hstep
      cases hstep
      rfl
    · rw [consume_syncByte] at hstep
      cases hstep
      rfl
  · intro hreset _ hfrom hto
    obtain ⟨i, hdecode, hexec⟩ := consume_eq_next.mp hstep
    rcases (effect_of_exec hexec).emits_of_packet_end hfrom hto with rfl | hemits
    · exact absurd (encode_of_decode hdecode).symm hreset
    · exact hemits

/-! ## The lowest bad frame -/

/-- The checksum that a frame demands (R98), as R13 puts it in integers. -/
theorem eq_frameCk_frameAt_iff {g : List Septet} {k : Nat} {c : Septet} :
    c = frameCk (frameAt g k) ↔ (groupByte g k 0 + groupByte g k 1 + groupByte g k 2 + groupByte g k 3 +
      groupByte g k 4 + c.toNat) % 128 = 127 := by
  rw [frameCk, eq_ck7_iff]
  simp [frameAt, entry, groupByte, add_assoc]

/-- The lowest bad frame of a group (R99), in integers. -/
theorem firstBad_eq_some_iff_groupFrameGood {g : List Septet} {fc k : Nat} :
    firstBad g fc = some k ↔ k < fc ∧ ¬ GroupFrameGood g k ∧ ∀ j < k, GroupFrameGood g j := by
  simp only [firstBad_eq_some, ← Bool.not_eq_true, frameGood_frameAt_iff]

/-- Settles O21: the group is closed with frame `k` as its lowest bad one. -/
theorem lowestBadFrameIsReported : Obligations.LowestBadFrameIsReported := by
  intro s h b k hst hpend hlen hk hgood hbad
  have hfull : (s.append b).buf.length = 6 * h.frameCount.toNat := by simpa using hlen
  have hclose : (s.append b).closeGroup h = (s.append b).frameFault k :=
    closeGroup_of_firstBad hfull (firstBad_eq_some_iff_groupFrameGood.mpr ⟨hk, hbad, hgood⟩)
  have hexpected := eq_frameCk_frameAt_iff.mp (Eq.refl (frameCk (frameAt (s.buf ++ [b]) k)))
  refine ⟨⟨6, dataByte (frameAt (s.buf ++ [b]) k).checksum, frameCk (frameAt (s.buf ++ [b]) k),
    BitVec.ofNat 7 k⟩, ?_, rfl, fun hindex => ?_, ?_, ?_⟩
  · rw [exec_framesDone hst hpend hlen, hclose]
    rfl
  · exact Nat.mod_eq_of_lt (Nat.lt_succ_of_le hindex)
  · exact dataByte_toNat _
  · simp only
    omega

end Sys2Proof.Machine
end

section
/-! The reset input (R121). -/

namespace Sys2Proof.Machine

/-- Settles O2: the row RESET has no condition, and what it answers is `State.toInit`. -/
theorem resetInputReturnsToInit : Obligations.ResetInputReturnsToInit := by
  intro s
  have hdecode : decode s.position .reset = .instr .reset := decode_encode .reset rfl s.position rfl
  have hexec : exec .reset s = .next s.toInit := execReset_eq_next.mpr rfl
  exact ⟨hdecode, hexec⟩

end Sys2Proof.Machine
end

section
/-! The word given alone (log 8): where its input is placed, the decoder answers what it answers for the word. -/

namespace Sys2Proof

theorem decodeTableWord_eq_some {nbits w : Nat} {i : Instr} :
    decodeTableWord nbits w = some i ↔
      ∃ inp, tableInput nbits w = some inp ∧ decode (lonePosition inp) inp = .instr i := by
  unfold decodeTableWord
  cases tableInput nbits w with
  | none => simp
  | some inp => cases hdecode : decode (lonePosition inp) inp <;> simp [hdecode]

end Sys2Proof

namespace Sys2Proof.Machine

theorem withFetchWord_of_tableInput {nbits w : Nat} {inp : Input} (h : tableInput nbits w = some inp) (s : State) :
    s.withFetchWord nbits w = s.place inp := by
  simp [State.withFetchWord, h]

/-- A placed DATA byte stands at its lone position, and the decoding of the other inputs does not read the
position (R66, R116, R121). -/
theorem decode_place (s : State) (inp : Input) :
    decode (s.place inp).position inp = decode (lonePosition inp) inp := by
  cases inp with
  | reset => rfl
  | byte b =>
    cases hclass : byteClass b with
    | sync | illegal => simp [decode, hclass]
    | data => rw [place_position_data hclass]

/-- Settles O31: the placed input is the next one, and it decodes as the word does. -/
theorem tableWordIsTheNextInstruction : Obligations.TableWordIsTheNextInstruction := by
  intro s nbits w i hword
  obtain ⟨inp, hinput, hdecode⟩ := decodeTableWord_eq_some.mp hword
  rw [withFetchWord_of_tableInput hinput]
  exact stepRunsTheDecodedInstruction (s.place inp) inp s.input i (place_input s inp)
    ((decode_place s inp).trans hdecode)

end Sys2Proof.Machine
end
